-- ==== Sys2Proof/Word.lean ====
section
/-! DEFINITION. The types of what the spec treats as bits: the 32-bit instruction word (R100) and the byte, the
cell of memory (R60). Registers, addresses and counters are natural numbers, as in R7. -/

namespace Sys2Proof

/-- An instruction word (R100). -/
abbrev Word := BitVec 32

/-- A memory cell's contents (R60). -/
abbrev Byte := BitVec 8

end Sys2Proof
end

