-- ==== Sys2Proof/Config.lean ====
section
/-! DEFINITION. What is fixed for a machine before its run (R6, R382): the configuration, with the syscall table as
plain data, and the one thing the spec leaves opaque, the behaviour of a syscall provider (R333), as an
uninterpreted constant. -/

namespace Sys2Proof

/-- The three access widths of R64. -/
inductive Width
  | byte
  | half
  | word
  deriving DecidableEq, Repr, Inhabited

/-- The results of an `Ok` outcome (R332): at most two, the first for `a0`, the second for `a1`. -/
inductive Results
  | zero
  | one (r0 : Nat)
  | two (r0 r1 : Nat)
  deriving DecidableEq, Repr, Inhabited

/-- What a provider does once its arguments are known: a deterministic course of accesses, each made through the
memory unit and each able to depend on the values loaded before it, that ends in one of the outcomes a provider
itself can choose (R332, R333; the `Trap` outcome comes from a failed access). Log 3, log 4. -/
inductive Proc
  | ok (r : Results)
  | err (code : Nat)
  | exit
  | load (addr : Nat) (width : Width) (next : Nat → Proc)
  | store (addr : Nat) (width : Width) (value : Nat) (next : Proc)
  deriving Inhabited

/-- FREE VALUE (log 3). The behaviour of the opaque capability number `id` on the six argument values. The spec
gives no provider (R333: the table is OPEN), so nothing constrains it. -/
opaque Config.foreignProvider : (id : Nat) → (args : List Nat) → Proc

/-- A value a scripted provider computes. `view t` is the W-bit view `u` of R8. -/
inductive Term
  | lit (n : Nat)
  | arg (i : Nat)
  | loaded (k : Nat)
  | view (t : Term)
  | add (a b : Term)
  | mul (a b : Term)
  deriving DecidableEq, Repr

/-- A provider written out as plain data, for the stub providers R333 allows (log 3). -/
inductive Script
  | ok0
  | ok1 (r0 : Term)
  | ok2 (r0 r1 : Term)
  | err (code : Nat)
  | exit
  | load (addr : Term) (width : Width) (rest : Script)
  | store (addr : Term) (width : Width) (value : Term) (rest : Script)
  | ifEq (a b : Term) (yes no : Script)
  deriving DecidableEq, Repr

/-- An entry of the syscall table (R333): an opaque capability, or a script. -/
inductive Provider
  | foreign (id : Nat)
  | script (code : Script)
  deriving DecidableEq, Repr

/-- The configuration of R6. IMAGE_MAGIC and IMAGE_VERSION are the loader's (D40) and stand in
`Image.ofContainer` only. -/
structure Config where
  P : Nat
  W : Nat
  N : Nat
  codeBase : Nat
  dataBase : Nat
  heapBase : Nat
  heapSize : Nat
  stackBase : Nat
  stackSize : Nat
  syscalls : List (Nat × Provider)
  deriving DecidableEq, Repr

/-- The reference values of R6. -/
def Config.reference : Config where
  P := 2147483647
  W := 30
  N := 32
  codeBase := 0x1000
  dataBase := 0x10000
  heapBase := 0x20000
  heapSize := 0x10000
  stackBase := 0x30000
  stackSize := 0x10000
  syscalls := []

end Sys2Proof
end

