-- ==== Sys2Proof/Syntax.lean ====
section
/-! DEFINITION. The decoded instruction of R109: one constructor per row of R111, carrying the operands of its
"operands" column. Register indices are naturals; an `imm` or `offset` is the signed meaning of the immediate
R108 decodes (its value in `[0, 2^W)` is `immValue`, log 6); `imm20`, `shamt` and `bits` are unsigned fields. -/

namespace Sys2Proof

/-- The instructions of R111. -/
inductive Instr
  | add (rd rs1 rs2 : Nat)
  | sub (rd rs1 rs2 : Nat)
  | sll (rd rs1 rs2 : Nat)
  | slt (rd rs1 rs2 : Nat)
  | sltu (rd rs1 rs2 : Nat)
  | xor (rd rs1 rs2 : Nat)
  | srl (rd rs1 rs2 : Nat)
  | sra (rd rs1 rs2 : Nat)
  | or (rd rs1 rs2 : Nat)
  | and (rd rs1 rs2 : Nat)
  | mul (rd rs1 rs2 : Nat)
  | div (rd rs1 rs2 : Nat)
  | divu (rd rs1 rs2 : Nat)
  | rem (rd rs1 rs2 : Nat)
  | remu (rd rs1 rs2 : Nat)
  | addi (rd rs1 : Nat) (imm : Int)
  | slti (rd rs1 : Nat) (imm : Int)
  | sltiu (rd rs1 : Nat) (imm : Int)
  | xori (rd rs1 : Nat) (imm : Int)
  | ori (rd rs1 : Nat) (imm : Int)
  | andi (rd rs1 : Nat) (imm : Int)
  | slli (rd rs1 shamt : Nat)
  | srli (rd rs1 shamt : Nat)
  | srai (rd rs1 shamt : Nat)
  | lui (rd imm20 : Nat)
  | auipc (rd imm20 : Nat)
  | lb (rd rs1 : Nat) (imm : Int)
  | lh (rd rs1 : Nat) (imm : Int)
  | lw (rd rs1 : Nat) (imm : Int)
  | lbu (rd rs1 : Nat) (imm : Int)
  | lhu (rd rs1 : Nat) (imm : Int)
  | sb (rs1 rs2 : Nat) (imm : Int)
  | sh (rs1 rs2 : Nat) (imm : Int)
  | sw (rs1 rs2 : Nat) (imm : Int)
  | beq (rs1 rs2 : Nat) (offset : Int)
  | bne (rs1 rs2 : Nat) (offset : Int)
  | blt (rs1 rs2 : Nat) (offset : Int)
  | bge (rs1 rs2 : Nat) (offset : Int)
  | bltu (rs1 rs2 : Nat) (offset : Int)
  | bgeu (rs1 rs2 : Nat) (offset : Int)
  | jal (rd : Nat) (offset : Int)
  | jalr (rd rs1 : Nat) (imm : Int)
  | ecall
  | ebreak
  | halt
  | debug (rs1 : Nat)
  | fadd (rd rs1 rs2 : Nat)
  | fsub (rd rs1 rs2 : Nat)
  | fmul (rd rs1 rs2 : Nat)
  | fneg (rd rs1 : Nat)
  | finv (rd rs1 : Nat)
  | read (rd : Nat)
  | hint (rd : Nat)
  | write (rs1 : Nat)
  | commit (rs1 : Nat)
  | assertEq (rs1 rs2 : Nat)
  | assertNe (rs1 rs2 : Nat)
  | assertZero (rs1 : Nat)
  | rangeCheck (rs1 bits : Nat)
  deriving DecidableEq, Repr

/-- The mnemonic of an instruction's row in R111. -/
def Instr.mnemonic : Instr → String
  | .add _ _ _ => "ADD"
  | .sub _ _ _ => "SUB"
  | .sll _ _ _ => "SLL"
  | .slt _ _ _ => "SLT"
  | .sltu _ _ _ => "SLTU"
  | .xor _ _ _ => "XOR"
  | .srl _ _ _ => "SRL"
  | .sra _ _ _ => "SRA"
  | .or _ _ _ => "OR"
  | .and _ _ _ => "AND"
  | .mul _ _ _ => "MUL"
  | .div _ _ _ => "DIV"
  | .divu _ _ _ => "DIVU"
  | .rem _ _ _ => "REM"
  | .remu _ _ _ => "REMU"
  | .addi _ _ _ => "ADDI"
  | .slti _ _ _ => "SLTI"
  | .sltiu _ _ _ => "SLTIU"
  | .xori _ _ _ => "XORI"
  | .ori _ _ _ => "ORI"
  | .andi _ _ _ => "ANDI"
  | .slli _ _ _ => "SLLI"
  | .srli _ _ _ => "SRLI"
  | .srai _ _ _ => "SRAI"
  | .lui _ _ => "LUI"
  | .auipc _ _ => "AUIPC"
  | .lb _ _ _ => "LB"
  | .lh _ _ _ => "LH"
  | .lw _ _ _ => "LW"
  | .lbu _ _ _ => "LBU"
  | .lhu _ _ _ => "LHU"
  | .sb _ _ _ => "SB"
  | .sh _ _ _ => "SH"
  | .sw _ _ _ => "SW"
  | .beq _ _ _ => "BEQ"
  | .bne _ _ _ => "BNE"
  | .blt _ _ _ => "BLT"
  | .bge _ _ _ => "BGE"
  | .bltu _ _ _ => "BLTU"
  | .bgeu _ _ _ => "BGEU"
  | .jal _ _ => "JAL"
  | .jalr _ _ _ => "JALR"
  | .ecall => "ECALL"
  | .ebreak => "EBREAK"
  | .halt => "HALT"
  | .debug _ => "DEBUG"
  | .fadd _ _ _ => "FADD"
  | .fsub _ _ _ => "FSUB"
  | .fmul _ _ _ => "FMUL"
  | .fneg _ _ => "FNEG"
  | .finv _ _ => "FINV"
  | .read _ => "READ"
  | .hint _ => "HINT"
  | .write _ => "WRITE"
  | .commit _ => "COMMIT"
  | .assertEq _ _ => "ASSERT_EQ"
  | .assertNe _ _ => "ASSERT_NE"
  | .assertZero _ => "ASSERT_ZERO"
  | .rangeCheck _ _ => "RANGE_CHECK"

/-- The instruction categories of R109. -/
inductive Category
  | registerRegister
  | registerImmediate
  | load
  | store
  | branch
  | upperImmediate
  | jump
  | system
  | zkPrimitive
  deriving DecidableEq, Repr

/-- The category of an instruction, by its major opcode (R109). -/
def Instr.category : Instr → Category
  | .add _ _ _ => .registerRegister
  | .sub _ _ _ => .registerRegister
  | .sll _ _ _ => .registerRegister
  | .slt _ _ _ => .registerRegister
  | .sltu _ _ _ => .registerRegister
  | .xor _ _ _ => .registerRegister
  | .srl _ _ _ => .registerRegister
  | .sra _ _ _ => .registerRegister
  | .or _ _ _ => .registerRegister
  | .and _ _ _ => .registerRegister
  | .mul _ _ _ => .registerRegister
  | .div _ _ _ => .registerRegister
  | .divu _ _ _ => .registerRegister
  | .rem _ _ _ => .registerRegister
  | .remu _ _ _ => .registerRegister
  | .addi _ _ _ => .registerImmediate
  | .slti _ _ _ => .registerImmediate
  | .sltiu _ _ _ => .registerImmediate
  | .xori _ _ _ => .registerImmediate
  | .ori _ _ _ => .registerImmediate
  | .andi _ _ _ => .registerImmediate
  | .slli _ _ _ => .registerImmediate
  | .srli _ _ _ => .registerImmediate
  | .srai _ _ _ => .registerImmediate
  | .lui _ _ => .upperImmediate
  | .auipc _ _ => .upperImmediate
  | .lb _ _ _ => .load
  | .lh _ _ _ => .load
  | .lw _ _ _ => .load
  | .lbu _ _ _ => .load
  | .lhu _ _ _ => .load
  | .sb _ _ _ => .store
  | .sh _ _ _ => .store
  | .sw _ _ _ => .store
  | .beq _ _ _ => .branch
  | .bne _ _ _ => .branch
  | .blt _ _ _ => .branch
  | .bge _ _ _ => .branch
  | .bltu _ _ _ => .branch
  | .bgeu _ _ _ => .branch
  | .jal _ _ => .jump
  | .jalr _ _ _ => .jump
  | .ecall => .system
  | .ebreak => .system
  | .halt => .system
  | .debug _ => .system
  | .fadd _ _ _ => .zkPrimitive
  | .fsub _ _ _ => .zkPrimitive
  | .fmul _ _ _ => .zkPrimitive
  | .fneg _ _ => .zkPrimitive
  | .finv _ _ => .zkPrimitive
  | .read _ => .zkPrimitive
  | .hint _ => .zkPrimitive
  | .write _ => .zkPrimitive
  | .commit _ => .zkPrimitive
  | .assertEq _ _ => .zkPrimitive
  | .assertNe _ _ => .zkPrimitive
  | .assertZero _ => .zkPrimitive
  | .rangeCheck _ _ => .zkPrimitive

/-- The semantic aliases of the registers (R23), in the order of their numbers. -/
def registerAliases : List String :=
  ["zero", "ra", "sp", "gp", "tp", "t0", "t1", "t2", "s0", "s1", "a0", "a1", "a2", "a3", "a4", "a5"] ++
  ["a6", "a7", "s2", "s3", "s4", "s5", "s6", "s7", "s8", "s9", "s10", "s11", "t3", "t4", "t5", "t6"]

end Sys2Proof
end

