-- ==== Sys2Proof/WellFormed.lean ====
section
/-! DEFINITION. The well-formed instructions of R114, as one Bool check for each kind of operand. -/

namespace Sys2Proof

/-- The register operands of an instruction (the register fields its row names, R111). -/
def Instr.registers : Instr → List Nat
  | .add rd rs1 rs2 => [rd, rs1, rs2]
  | .sub rd rs1 rs2 => [rd, rs1, rs2]
  | .sll rd rs1 rs2 => [rd, rs1, rs2]
  | .slt rd rs1 rs2 => [rd, rs1, rs2]
  | .sltu rd rs1 rs2 => [rd, rs1, rs2]
  | .xor rd rs1 rs2 => [rd, rs1, rs2]
  | .srl rd rs1 rs2 => [rd, rs1, rs2]
  | .sra rd rs1 rs2 => [rd, rs1, rs2]
  | .or rd rs1 rs2 => [rd, rs1, rs2]
  | .and rd rs1 rs2 => [rd, rs1, rs2]
  | .mul rd rs1 rs2 => [rd, rs1, rs2]
  | .div rd rs1 rs2 => [rd, rs1, rs2]
  | .divu rd rs1 rs2 => [rd, rs1, rs2]
  | .rem rd rs1 rs2 => [rd, rs1, rs2]
  | .remu rd rs1 rs2 => [rd, rs1, rs2]
  | .addi rd rs1 _ => [rd, rs1]
  | .slti rd rs1 _ => [rd, rs1]
  | .sltiu rd rs1 _ => [rd, rs1]
  | .xori rd rs1 _ => [rd, rs1]
  | .ori rd rs1 _ => [rd, rs1]
  | .andi rd rs1 _ => [rd, rs1]
  | .slli rd rs1 _ => [rd, rs1]
  | .srli rd rs1 _ => [rd, rs1]
  | .srai rd rs1 _ => [rd, rs1]
  | .lui rd _ => [rd]
  | .auipc rd _ => [rd]
  | .lb rd rs1 _ => [rd, rs1]
  | .lh rd rs1 _ => [rd, rs1]
  | .lw rd rs1 _ => [rd, rs1]
  | .lbu rd rs1 _ => [rd, rs1]
  | .lhu rd rs1 _ => [rd, rs1]
  | .sb rs1 rs2 _ => [rs1, rs2]
  | .sh rs1 rs2 _ => [rs1, rs2]
  | .sw rs1 rs2 _ => [rs1, rs2]
  | .beq rs1 rs2 _ => [rs1, rs2]
  | .bne rs1 rs2 _ => [rs1, rs2]
  | .blt rs1 rs2 _ => [rs1, rs2]
  | .bge rs1 rs2 _ => [rs1, rs2]
  | .bltu rs1 rs2 _ => [rs1, rs2]
  | .bgeu rs1 rs2 _ => [rs1, rs2]
  | .jal rd _ => [rd]
  | .jalr rd rs1 _ => [rd, rs1]
  | .ecall => []
  | .ebreak => []
  | .halt => []
  | .debug rs1 => [rs1]
  | .fadd rd rs1 rs2 => [rd, rs1, rs2]
  | .fsub rd rs1 rs2 => [rd, rs1, rs2]
  | .fmul rd rs1 rs2 => [rd, rs1, rs2]
  | .fneg rd rs1 => [rd, rs1]
  | .finv rd rs1 => [rd, rs1]
  | .read rd => [rd]
  | .hint rd => [rd]
  | .write rs1 => [rs1]
  | .commit rs1 => [rs1]
  | .assertEq rs1 rs2 => [rs1, rs2]
  | .assertNe rs1 rs2 => [rs1, rs2]
  | .assertZero rs1 => [rs1]
  | .rangeCheck rs1 _ => [rs1]

/-- Every register index is below `n` (R112). -/
def Instr.registersBelow (n : Nat) (i : Instr) : Bool := i.registers.all (· < n)

/-- The range of a 12-bit I or S immediate (R108). -/
def immInRange (imm : Int) : Bool := decide (-2048 ≤ imm) && decide (imm ≤ 2047)

/-- A B offset: even and in range (R108). -/
def branchOffsetOk (offset : Int) : Bool :=
  decide (offset % 2 = 0) && decide (-4096 ≤ offset) && decide (offset ≤ 4094)

/-- A J offset: even and in range (R108). -/
def jumpOffsetOk (offset : Int) : Bool :=
  decide (offset % 2 = 0) && decide (-1048576 ≤ offset) && decide (offset ≤ 1048574)

/-- The operands that are no register fit their fields (R114). -/
def Instr.fieldsFit : Instr → Bool
  | .add _ _ _ => true
  | .sub _ _ _ => true
  | .sll _ _ _ => true
  | .slt _ _ _ => true
  | .sltu _ _ _ => true
  | .xor _ _ _ => true
  | .srl _ _ _ => true
  | .sra _ _ _ => true
  | .or _ _ _ => true
  | .and _ _ _ => true
  | .mul _ _ _ => true
  | .div _ _ _ => true
  | .divu _ _ _ => true
  | .rem _ _ _ => true
  | .remu _ _ _ => true
  | .addi _ _ imm => immInRange imm
  | .slti _ _ imm => immInRange imm
  | .sltiu _ _ imm => immInRange imm
  | .xori _ _ imm => immInRange imm
  | .ori _ _ imm => immInRange imm
  | .andi _ _ imm => immInRange imm
  | .slli _ _ shamt => decide (shamt < 32)
  | .srli _ _ shamt => decide (shamt < 32)
  | .srai _ _ shamt => decide (shamt < 32)
  | .lui _ imm20 => decide (imm20 < 2 ^ 20)
  | .auipc _ imm20 => decide (imm20 < 2 ^ 20)
  | .lb _ _ imm => immInRange imm
  | .lh _ _ imm => immInRange imm
  | .lw _ _ imm => immInRange imm
  | .lbu _ _ imm => immInRange imm
  | .lhu _ _ imm => immInRange imm
  | .sb _ _ imm => immInRange imm
  | .sh _ _ imm => immInRange imm
  | .sw _ _ imm => immInRange imm
  | .beq _ _ offset => branchOffsetOk offset
  | .bne _ _ offset => branchOffsetOk offset
  | .blt _ _ offset => branchOffsetOk offset
  | .bge _ _ offset => branchOffsetOk offset
  | .bltu _ _ offset => branchOffsetOk offset
  | .bgeu _ _ offset => branchOffsetOk offset
  | .jal _ offset => jumpOffsetOk offset
  | .jalr _ _ imm => immInRange imm
  | .ecall => true
  | .ebreak => true
  | .halt => true
  | .debug _ => true
  | .fadd _ _ _ => true
  | .fsub _ _ _ => true
  | .fmul _ _ _ => true
  | .fneg _ _ => true
  | .finv _ _ => true
  | .read _ => true
  | .hint _ => true
  | .write _ => true
  | .commit _ => true
  | .assertEq _ _ => true
  | .assertNe _ _ => true
  | .assertZero _ => true
  | .rangeCheck _ bits => decide (bits < 32)

/-- A well-formed instruction for a machine with `n` registers (R114). -/
def Instr.wellFormed (n : Nat) (i : Instr) : Bool := i.registersBelow n && i.fieldsFit

end Sys2Proof
end

