-- ==== Sys2Proof/Decode.lean ====
section
/-! DEFINITION. The decoder of R113, over the table of R111, and the encoder of R114, over the formats of
R102 to R107. -/

namespace Sys2Proof

/-! ### The fields of a word (R101) and the immediates (R108) -/

/-- `w[11:7]`. -/
def rdOf (w : Word) : Nat := (w.extractLsb' 7 5).toNat

/-- `w[19:15]`. -/
def rs1Of (w : Word) : Nat := (w.extractLsb' 15 5).toNat

/-- `w[24:20]`. -/
def rs2Of (w : Word) : Nat := (w.extractLsb' 20 5).toNat

/-- The shift amount of I-shift, `w[24:20]`. -/
def shamtOf (w : Word) : Nat := (w.extractLsb' 20 5).toNat

/-- RANGE_CHECK's `bits`, `w[24:20]`. -/
def bitsOf (w : Word) : Nat := (w.extractLsb' 20 5).toNat

/-- The U format's field `w[31:12]`, not sign-extended. -/
def imm20Of (w : Word) : Nat := (w.extractLsb' 12 20).toNat

/-- The I format's immediate: `w[31:20]`, signed. -/
def immI (w : Word) : Int := (w.extractLsb' 20 12).toInt

/-- The S format's immediate: `w[31:25] ++ w[11:7]`, signed. -/
def immS (w : Word) : Int := (w.extractLsb' 25 7 ++ w.extractLsb' 7 5).toInt

/-- The B format's offset: `w[31] ++ w[7] ++ w[30:25] ++ w[11:8] ++ 0`, signed. -/
def immB (w : Word) : Int :=
  (w.extractLsb' 31 1 ++ w.extractLsb' 7 1 ++ w.extractLsb' 25 6 ++ w.extractLsb' 8 4 ++ 0#1).toInt

/-- The J format's offset: `w[31] ++ w[19:12] ++ w[20] ++ w[30:21] ++ 0`, signed. -/
def immJ (w : Word) : Int :=
  (w.extractLsb' 31 1 ++ w.extractLsb' 12 8 ++ w.extractLsb' 20 1 ++ w.extractLsb' 21 10 ++ 0#1).toInt

/-! ### The table (R111) -/

/-- A row of R111: the word is the row's instruction iff `w & mask = pat`. -/
structure Row where
  mnemonic : String
  pat : Word
  mask : Word
  build : Word → Instr

/-- The test of R111. -/
def Row.covers (r : Row) (w : Word) : Bool := w &&& r.mask == r.pat

/-- The rows of major opcode OP (R111). -/
def opRows : List Row := [
  ⟨"ADD", 0x00000033, 0xFE00707F, fun w => .add (rdOf w) (rs1Of w) (rs2Of w)⟩,
  ⟨"SUB", 0x40000033, 0xFE00707F, fun w => .sub (rdOf w) (rs1Of w) (rs2Of w)⟩,
  ⟨"SLL", 0x00001033, 0xFE00707F, fun w => .sll (rdOf w) (rs1Of w) (rs2Of w)⟩,
  ⟨"SLT", 0x00002033, 0xFE00707F, fun w => .slt (rdOf w) (rs1Of w) (rs2Of w)⟩,
  ⟨"SLTU", 0x00003033, 0xFE00707F, fun w => .sltu (rdOf w) (rs1Of w) (rs2Of w)⟩,
  ⟨"XOR", 0x00004033, 0xFE00707F, fun w => .xor (rdOf w) (rs1Of w) (rs2Of w)⟩,
  ⟨"SRL", 0x00005033, 0xFE00707F, fun w => .srl (rdOf w) (rs1Of w) (rs2Of w)⟩,
  ⟨"SRA", 0x40005033, 0xFE00707F, fun w => .sra (rdOf w) (rs1Of w) (rs2Of w)⟩,
  ⟨"OR", 0x00006033, 0xFE00707F, fun w => .or (rdOf w) (rs1Of w) (rs2Of w)⟩,
  ⟨"AND", 0x00007033, 0xFE00707F, fun w => .and (rdOf w) (rs1Of w) (rs2Of w)⟩,
  ⟨"MUL", 0x02000033, 0xFE00707F, fun w => .mul (rdOf w) (rs1Of w) (rs2Of w)⟩,
  ⟨"DIV", 0x02004033, 0xFE00707F, fun w => .div (rdOf w) (rs1Of w) (rs2Of w)⟩,
  ⟨"DIVU", 0x02005033, 0xFE00707F, fun w => .divu (rdOf w) (rs1Of w) (rs2Of w)⟩,
  ⟨"REM", 0x02006033, 0xFE00707F, fun w => .rem (rdOf w) (rs1Of w) (rs2Of w)⟩,
  ⟨"REMU", 0x02007033, 0xFE00707F, fun w => .remu (rdOf w) (rs1Of w) (rs2Of w)⟩]

/-- The rows of OP-IMM, LUI and AUIPC (R111). -/
def immediateRows : List Row := [
  ⟨"ADDI", 0x00000013, 0x0000707F, fun w => .addi (rdOf w) (rs1Of w) (immI w)⟩,
  ⟨"SLTI", 0x00002013, 0x0000707F, fun w => .slti (rdOf w) (rs1Of w) (immI w)⟩,
  ⟨"SLTIU", 0x00003013, 0x0000707F, fun w => .sltiu (rdOf w) (rs1Of w) (immI w)⟩,
  ⟨"XORI", 0x00004013, 0x0000707F, fun w => .xori (rdOf w) (rs1Of w) (immI w)⟩,
  ⟨"ORI", 0x00006013, 0x0000707F, fun w => .ori (rdOf w) (rs1Of w) (immI w)⟩,
  ⟨"ANDI", 0x00007013, 0x0000707F, fun w => .andi (rdOf w) (rs1Of w) (immI w)⟩,
  ⟨"SLLI", 0x00001013, 0xFE00707F, fun w => .slli (rdOf w) (rs1Of w) (shamtOf w)⟩,
  ⟨"SRLI", 0x00005013, 0xFE00707F, fun w => .srli (rdOf w) (rs1Of w) (shamtOf w)⟩,
  ⟨"SRAI", 0x40005013, 0xFE00707F, fun w => .srai (rdOf w) (rs1Of w) (shamtOf w)⟩,
  ⟨"LUI", 0x00000037, 0x0000007F, fun w => .lui (rdOf w) (imm20Of w)⟩,
  ⟨"AUIPC", 0x00000017, 0x0000007F, fun w => .auipc (rdOf w) (imm20Of w)⟩]

/-- The rows of LOAD and STORE (R111). -/
def memoryRows : List Row := [
  ⟨"LB", 0x00000003, 0x0000707F, fun w => .lb (rdOf w) (rs1Of w) (immI w)⟩,
  ⟨"LH", 0x00001003, 0x0000707F, fun w => .lh (rdOf w) (rs1Of w) (immI w)⟩,
  ⟨"LW", 0x00002003, 0x0000707F, fun w => .lw (rdOf w) (rs1Of w) (immI w)⟩,
  ⟨"LBU", 0x00004003, 0x0000707F, fun w => .lbu (rdOf w) (rs1Of w) (immI w)⟩,
  ⟨"LHU", 0x00005003, 0x0000707F, fun w => .lhu (rdOf w) (rs1Of w) (immI w)⟩,
  ⟨"SB", 0x00000023, 0x0000707F, fun w => .sb (rs1Of w) (rs2Of w) (immS w)⟩,
  ⟨"SH", 0x00001023, 0x0000707F, fun w => .sh (rs1Of w) (rs2Of w) (immS w)⟩,
  ⟨"SW", 0x00002023, 0x0000707F, fun w => .sw (rs1Of w) (rs2Of w) (immS w)⟩]

/-- The rows of BRANCH, JAL, JALR and SYSTEM (R111). -/
def controlRows : List Row := [
  ⟨"BEQ", 0x00000063, 0x0000707F, fun w => .beq (rs1Of w) (rs2Of w) (immB w)⟩,
  ⟨"BNE", 0x00001063, 0x0000707F, fun w => .bne (rs1Of w) (rs2Of w) (immB w)⟩,
  ⟨"BLT", 0x00004063, 0x0000707F, fun w => .blt (rs1Of w) (rs2Of w) (immB w)⟩,
  ⟨"BGE", 0x00005063, 0x0000707F, fun w => .bge (rs1Of w) (rs2Of w) (immB w)⟩,
  ⟨"BLTU", 0x00006063, 0x0000707F, fun w => .bltu (rs1Of w) (rs2Of w) (immB w)⟩,
  ⟨"BGEU", 0x00007063, 0x0000707F, fun w => .bgeu (rs1Of w) (rs2Of w) (immB w)⟩,
  ⟨"JAL", 0x0000006F, 0x0000007F, fun w => .jal (rdOf w) (immJ w)⟩,
  ⟨"JALR", 0x00000067, 0x0000707F, fun w => .jalr (rdOf w) (rs1Of w) (immI w)⟩,
  ⟨"ECALL", 0x00000073, 0xFFFFFFFF, fun _ => .ecall⟩,
  ⟨"EBREAK", 0x00100073, 0xFFFFFFFF, fun _ => .ebreak⟩,
  ⟨"HALT", 0x00200073, 0xFFFFFFFF, fun _ => .halt⟩,
  ⟨"DEBUG", 0x00300073, 0xFFF07FFF, fun w => .debug (rs1Of w)⟩]

/-- The rows of FIELD, IO and ASSERT (R111). -/
def zkRows : List Row := [
  ⟨"FADD", 0x0000000B, 0xFE00707F, fun w => .fadd (rdOf w) (rs1Of w) (rs2Of w)⟩,
  ⟨"FSUB", 0x0000100B, 0xFE00707F, fun w => .fsub (rdOf w) (rs1Of w) (rs2Of w)⟩,
  ⟨"FMUL", 0x0000200B, 0xFE00707F, fun w => .fmul (rdOf w) (rs1Of w) (rs2Of w)⟩,
  ⟨"FNEG", 0x0000300B, 0xFFF0707F, fun w => .fneg (rdOf w) (rs1Of w)⟩,
  ⟨"FINV", 0x0000400B, 0xFFF0707F, fun w => .finv (rdOf w) (rs1Of w)⟩,
  ⟨"READ", 0x0000002B, 0xFFFFF07F, fun w => .read (rdOf w)⟩,
  ⟨"HINT", 0x0000102B, 0xFFFFF07F, fun w => .hint (rdOf w)⟩,
  ⟨"WRITE", 0x0000202B, 0xFFF07FFF, fun w => .write (rs1Of w)⟩,
  ⟨"COMMIT", 0x0000302B, 0xFFF07FFF, fun w => .commit (rs1Of w)⟩,
  ⟨"ASSERT_EQ", 0x0000005B, 0xFE007FFF, fun w => .assertEq (rs1Of w) (rs2Of w)⟩,
  ⟨"ASSERT_NE", 0x0000105B, 0xFE007FFF, fun w => .assertNe (rs1Of w) (rs2Of w)⟩,
  ⟨"ASSERT_ZERO", 0x0000205B, 0xFFF07FFF, fun w => .assertZero (rs1Of w)⟩,
  ⟨"RANGE_CHECK", 0x0000305B, 0xFE007FFF, fun w => .rangeCheck (rs1Of w) (bitsOf w)⟩]

/-- All 59 rows of R111. -/
def rows : List Row := opRows ++ immediateRows ++ memoryRows ++ controlRows ++ zkRows

/-! ### Decoding (R113) -/

/-- Why a word or byte string is no instruction: no row covers it (R116), a register field is out of range (R112),
or fewer than four bytes are left. -/
inductive DecodeError
  | noRow
  | registerIndex
  | truncated
  deriving DecidableEq, Repr

/-- `decode` of R113, for a machine with `n` registers. -/
def decode (n : Nat) (w : Word) : Except DecodeError Instr :=
  match rows.find? (fun r => r.covers w) with
  | none => .error .noRow
  | some r => if (r.build w).registersBelow n then .ok (r.build w) else .error .registerIndex

/-- Four bytes as a little-endian word (R100, R75). -/
def wordOfBytes (b0 b1 b2 b3 : Byte) : Word := b3 ++ b2 ++ b1 ++ b0

/-- A word's bytes in the order the hardware stores them, lowest address first (R100). -/
def bytesOfWord (w : Word) : List Byte :=
  [w.extractLsb' 0 8, w.extractLsb' 8 8, w.extractLsb' 16 8, w.extractLsb' 24 8]

/-- Decoding from a byte string: the instruction of the first four bytes and the bytes that are left. -/
def decodeBytes (n : Nat) : List Byte → Except DecodeError (Instr × List Byte)
  | b0 :: b1 :: b2 :: b3 :: rest =>
    match decode n (wordOfBytes b0 b1 b2 b3) with
    | .ok i => .ok (i, rest)
    | .error e => .error e
  | _ => .error .truncated

/-- The word of a table row's instruction: the table's low `nbits` bits, every bit above them 0. -/
def tableWord (nbits w : Nat) : Word := BitVec.ofNat 32 (w % 2 ^ nbits)

/-- The instruction the reference machine's decoder reads from a word of spec/opcode_table.json. -/
def decodeTableWord (nbits w : Nat) : Option Instr :=
  match decodeBytes Config.reference.N (bytesOfWord (tableWord nbits w)) with
  | .ok (i, _) => some i
  | .error _ => none

/-! ### Encoding (R102 to R107, R114) -/

/-- A register index in its 5-bit field. -/
def reg (r : Nat) : BitVec 5 := BitVec.ofNat 5 r

/-- The R format (R102), and I-shift with `shamt` in place of `rs2` (R103). -/
def encodeR (funct7 : BitVec 7) (rs2 rs1 : BitVec 5) (funct3 : BitVec 3) (rd : BitVec 5) (opcode : BitVec 7) : Word :=
  funct7 ++ rs2 ++ rs1 ++ funct3 ++ rd ++ opcode

/-- The I format (R103). -/
def encodeI (imm : BitVec 12) (rs1 : BitVec 5) (funct3 : BitVec 3) (rd : BitVec 5) (opcode : BitVec 7) : Word :=
  imm ++ rs1 ++ funct3 ++ rd ++ opcode

/-- The S format (R104). -/
def encodeS (imm : BitVec 12) (rs2 rs1 : BitVec 5) (funct3 : BitVec 3) (opcode : BitVec 7) : Word :=
  imm.extractLsb' 5 7 ++ rs2 ++ rs1 ++ funct3 ++ imm.extractLsb' 0 5 ++ opcode

/-- The B format (R105). -/
def encodeB (off : BitVec 13) (rs2 rs1 : BitVec 5) (funct3 : BitVec 3) (opcode : BitVec 7) : Word :=
  off.extractLsb' 12 1 ++ off.extractLsb' 5 6 ++ rs2 ++ rs1 ++ funct3 ++
    off.extractLsb' 1 4 ++ off.extractLsb' 11 1 ++ opcode

/-- The U format (R106). -/
def encodeU (imm20 : BitVec 20) (rd : BitVec 5) (opcode : BitVec 7) : Word := imm20 ++ rd ++ opcode

/-- The J format (R107). -/
def encodeJ (off : BitVec 21) (rd : BitVec 5) (opcode : BitVec 7) : Word :=
  off.extractLsb' 20 1 ++ off.extractLsb' 1 10 ++ off.extractLsb' 11 1 ++ off.extractLsb' 12 8 ++ rd ++ opcode

/-- `encode` of R114. -/
def encode : Instr → Word
  | .add rd rs1 rs2 => encodeR 0x00 (reg rs2) (reg rs1) 0 (reg rd) 0x33
  | .sub rd rs1 rs2 => encodeR 0x20 (reg rs2) (reg rs1) 0 (reg rd) 0x33
  | .sll rd rs1 rs2 => encodeR 0x00 (reg rs2) (reg rs1) 1 (reg rd) 0x33
  | .slt rd rs1 rs2 => encodeR 0x00 (reg rs2) (reg rs1) 2 (reg rd) 0x33
  | .sltu rd rs1 rs2 => encodeR 0x00 (reg rs2) (reg rs1) 3 (reg rd) 0x33
  | .xor rd rs1 rs2 => encodeR 0x00 (reg rs2) (reg rs1) 4 (reg rd) 0x33
  | .srl rd rs1 rs2 => encodeR 0x00 (reg rs2) (reg rs1) 5 (reg rd) 0x33
  | .sra rd rs1 rs2 => encodeR 0x20 (reg rs2) (reg rs1) 5 (reg rd) 0x33
  | .or rd rs1 rs2 => encodeR 0x00 (reg rs2) (reg rs1) 6 (reg rd) 0x33
  | .and rd rs1 rs2 => encodeR 0x00 (reg rs2) (reg rs1) 7 (reg rd) 0x33
  | .mul rd rs1 rs2 => encodeR 0x01 (reg rs2) (reg rs1) 0 (reg rd) 0x33
  | .div rd rs1 rs2 => encodeR 0x01 (reg rs2) (reg rs1) 4 (reg rd) 0x33
  | .divu rd rs1 rs2 => encodeR 0x01 (reg rs2) (reg rs1) 5 (reg rd) 0x33
  | .rem rd rs1 rs2 => encodeR 0x01 (reg rs2) (reg rs1) 6 (reg rd) 0x33
  | .remu rd rs1 rs2 => encodeR 0x01 (reg rs2) (reg rs1) 7 (reg rd) 0x33
  | .addi rd rs1 imm => encodeI (BitVec.ofInt 12 imm) (reg rs1) 0 (reg rd) 0x13
  | .slti rd rs1 imm => encodeI (BitVec.ofInt 12 imm) (reg rs1) 2 (reg rd) 0x13
  | .sltiu rd rs1 imm => encodeI (BitVec.ofInt 12 imm) (reg rs1) 3 (reg rd) 0x13
  | .xori rd rs1 imm => encodeI (BitVec.ofInt 12 imm) (reg rs1) 4 (reg rd) 0x13
  | .ori rd rs1 imm => encodeI (BitVec.ofInt 12 imm) (reg rs1) 6 (reg rd) 0x13
  | .andi rd rs1 imm => encodeI (BitVec.ofInt 12 imm) (reg rs1) 7 (reg rd) 0x13
  | .slli rd rs1 shamt => encodeR 0x00 (BitVec.ofNat 5 shamt) (reg rs1) 1 (reg rd) 0x13
  | .srli rd rs1 shamt => encodeR 0x00 (BitVec.ofNat 5 shamt) (reg rs1) 5 (reg rd) 0x13
  | .srai rd rs1 shamt => encodeR 0x20 (BitVec.ofNat 5 shamt) (reg rs1) 5 (reg rd) 0x13
  | .lui rd imm20 => encodeU (BitVec.ofNat 20 imm20) (reg rd) 0x37
  | .auipc rd imm20 => encodeU (BitVec.ofNat 20 imm20) (reg rd) 0x17
  | .lb rd rs1 imm => encodeI (BitVec.ofInt 12 imm) (reg rs1) 0 (reg rd) 0x03
  | .lh rd rs1 imm => encodeI (BitVec.ofInt 12 imm) (reg rs1) 1 (reg rd) 0x03
  | .lw rd rs1 imm => encodeI (BitVec.ofInt 12 imm) (reg rs1) 2 (reg rd) 0x03
  | .lbu rd rs1 imm => encodeI (BitVec.ofInt 12 imm) (reg rs1) 4 (reg rd) 0x03
  | .lhu rd rs1 imm => encodeI (BitVec.ofInt 12 imm) (reg rs1) 5 (reg rd) 0x03
  | .sb rs1 rs2 imm => encodeS (BitVec.ofInt 12 imm) (reg rs2) (reg rs1) 0 0x23
  | .sh rs1 rs2 imm => encodeS (BitVec.ofInt 12 imm) (reg rs2) (reg rs1) 1 0x23
  | .sw rs1 rs2 imm => encodeS (BitVec.ofInt 12 imm) (reg rs2) (reg rs1) 2 0x23
  | .beq rs1 rs2 offset => encodeB (BitVec.ofInt 13 offset) (reg rs2) (reg rs1) 0 0x63
  | .bne rs1 rs2 offset => encodeB (BitVec.ofInt 13 offset) (reg rs2) (reg rs1) 1 0x63
  | .blt rs1 rs2 offset => encodeB (BitVec.ofInt 13 offset) (reg rs2) (reg rs1) 4 0x63
  | .bge rs1 rs2 offset => encodeB (BitVec.ofInt 13 offset) (reg rs2) (reg rs1) 5 0x63
  | .bltu rs1 rs2 offset => encodeB (BitVec.ofInt 13 offset) (reg rs2) (reg rs1) 6 0x63
  | .bgeu rs1 rs2 offset => encodeB (BitVec.ofInt 13 offset) (reg rs2) (reg rs1) 7 0x63
  | .jal rd offset => encodeJ (BitVec.ofInt 21 offset) (reg rd) 0x6F
  | .jalr rd rs1 imm => encodeI (BitVec.ofInt 12 imm) (reg rs1) 0 (reg rd) 0x67
  | .ecall => encodeI 0 0 0 0 0x73
  | .ebreak => encodeI 1 0 0 0 0x73
  | .halt => encodeI 2 0 0 0 0x73
  | .debug rs1 => encodeI 3 (reg rs1) 0 0 0x73
  | .fadd rd rs1 rs2 => encodeR 0x00 (reg rs2) (reg rs1) 0 (reg rd) 0x0B
  | .fsub rd rs1 rs2 => encodeR 0x00 (reg rs2) (reg rs1) 1 (reg rd) 0x0B
  | .fmul rd rs1 rs2 => encodeR 0x00 (reg rs2) (reg rs1) 2 (reg rd) 0x0B
  | .fneg rd rs1 => encodeR 0x00 0 (reg rs1) 3 (reg rd) 0x0B
  | .finv rd rs1 => encodeR 0x00 0 (reg rs1) 4 (reg rd) 0x0B
  | .read rd => encodeR 0x00 0 0 0 (reg rd) 0x2B
  | .hint rd => encodeR 0x00 0 0 1 (reg rd) 0x2B
  | .write rs1 => encodeR 0x00 0 (reg rs1) 2 0 0x2B
  | .commit rs1 => encodeR 0x00 0 (reg rs1) 3 0 0x2B
  | .assertEq rs1 rs2 => encodeR 0x00 (reg rs2) (reg rs1) 0 0 0x5B
  | .assertNe rs1 rs2 => encodeR 0x00 (reg rs2) (reg rs1) 1 0 0x5B
  | .assertZero rs1 => encodeR 0x00 0 (reg rs1) 2 0 0x5B
  | .rangeCheck rs1 bits => encodeR 0x00 (BitVec.ofNat 5 bits) (reg rs1) 3 0 0x5B

end Sys2Proof
end

