-- ==== Sys2Proof/Machine/State.lean ====
section
/-! DEFINITION. The ExecutionState of R20 as plain data, the trap reasons of R350, the model's own stops, and the
state after reset. -/

namespace Sys2Proof.Machine

/-- The sequence an exhausted READ or HINT names (R350, code 9). -/
inductive Stream
  | input
  | hint
  deriving DecidableEq, Repr

/-- The trap reasons of R350 with their payloads. Each is a status the machine ends in, never a stop of the model. -/
inductive TrapReason
  | misaligned (addr : Nat)
  | outOfBounds (addr : Nat)
  | invalidAddress (pc : Nat)
  | invalidInstruction (w : Word)
  | divByZero
  | assertionFailed
  | rangeCheckFailed
  | unknownSyscall (n : Nat)
  | inputExhausted (stream : Stream)
  | breakpoint
  | cycleLimitExceeded
  | syscallFailed
  deriving DecidableEq, Repr

/-- The status of R27. -/
inductive Status
  | running
  | halted
  | trapped (r : TrapReason)
  deriving DecidableEq, Repr

/-- The kind of a logged access (R70). -/
inductive AccessKind
  | read
  | write
  deriving DecidableEq, Repr

/-- An access-log entry (R70). -/
structure Access where
  address : Nat
  width : Nat
  cycle : Nat
  value : Nat
  kind : AccessKind
  deriving DecidableEq, Repr

/-- The `memory_access` of a trace row (R32); `kind = none` is the kind None. -/
structure MemAccess where
  address : Nat
  width : Nat
  value : Nat
  kind : Option AccessKind
  deriving DecidableEq, Repr

/-- A trace row (R32). -/
structure TraceRow where
  cycle : Nat
  pc : Nat
  instr : Option Instr
  before : List Nat
  after : List Nat
  access : MemAccess
  trap : Option TrapReason
  deriving DecidableEq, Repr

/-- The ExecutionState of R20. `cfg`, `codeSize`, `dataSize`, `limit`, `inputs` and `hints` are fixed for a run
(R382, R29; log 1). `regs` is `X[1..N-1]`; x0 is no state (R21). `mem` lists the bytes that are not zero (R60). -/
structure State where
  cfg : Config
  codeSize : Nat
  dataSize : Nat
  limit : Nat
  inputs : List Nat
  hints : List Nat
  regs : List Nat
  pc : Nat
  mem : List Host.Cell
  status : Status
  inputCursor : Nat
  hintCursor : Nat
  outputs : List Nat
  commitments : List Nat
  cycleCount : Nat
  trace : List TraceRow
  accessLog : List Access
  deriving DecidableEq, Repr

/-- Where the model stops with a fault. -/
inductive Fault
  /-- Raised by `step` alone, in a state whose status is Halted or Trapped: "A step exists only from Running" (R27,
  R140). Safe: the run has ended there. -/
  | runEnded (status : Status)
  deriving DecidableEq, Repr

/-- Where the model gives no behaviour. -/
inductive Refusal
  /-- Raised by an arm of `exec` whose instruction has no meaning in the model. No arm raises it. Safe. -/
  | notModelled (mnemonic : String)
  /-- Raised by `boot` alone, for a configuration that breaks a constraint of R6: "no run exists for it". Safe. -/
  | invalidConfiguration
  /-- Raised by `boot` alone, for an image whose segments overlap or leave the address space (D52). Safe. -/
  | imageDoesNotFit
  deriving DecidableEq, Repr

/-- The state after reset (R39, R380) of the reference machine with the run inputs that log 2 names: an empty image
with `entry_point` 0x1000, no inputs, no hints, L = 1000. `boot` gives the state after reset of every other run. -/
def State.reset : State where
  cfg := Config.reference
  codeSize := 0
  dataSize := 0
  limit := 1000
  inputs := []
  hints := []
  regs := List.replicate 31 0
  pc := 0x1000
  mem := []
  status := .running
  inputCursor := 0
  hintCursor := 0
  outputs := []
  commitments := []
  cycleCount := 0
  trace := []
  accessLog := []

end Sys2Proof.Machine
end

