-- ==== Sys2Proof/Machine/Operands.lean ====
section
/-! DEFINITION. How an operand is read and a result formed: the integer views of R8, the extensions of R9, the
immediates of R108, the register file of R21 and R22, and effective addresses (R250). -/

namespace Sys2Proof.Machine

/-! ### Views and extensions, at a width `W` -/

/-- `u(v)` of R8. -/
def uView (W v : Nat) : Nat := v % 2 ^ W

/-- `s(v)` of R8. -/
def sView (W v : Nat) : Int :=
  if uView W v < 2 ^ (W - 1) then (uView W v : Int) else (uView W v : Int) - 2 ^ W

/-- `wrap(z)` of R8. -/
def wrap (W : Nat) (z : Int) : Nat := (z % 2 ^ W).toNat

/-- `sext_W(f, k)` of R9, for `1 ≤ k ≤ W` and `f < 2^k`. -/
def sext (W f k : Nat) : Nat := if f < 2 ^ (k - 1) then f else f + 2 ^ W - 2 ^ k

/-- The value in `[0, 2^W)` of a decoded signed immediate or offset (R108, log 6). -/
def immValue (W : Nat) (imm : Int) : Nat := wrap W imm

/-- A shift amount, taken modulo the register width (R193). -/
def shiftAmount (W n : Nat) : Nat := n % W

/-! ### The register file (R21, R22) -/

/-- `x[i]`: x0 reads as zero. -/
def State.readReg (s : State) : Nat → Nat
  | 0 => 0
  | i + 1 => s.regs.getD i 0

/-- `x[i] <- v`: discarded for x0, else stored modulo P. -/
def State.writeReg (s : State) (i v : Nat) : State :=
  match i with
  | 0 => s
  | j + 1 => { s with regs := s.regs.set j (v % s.cfg.P) }

/-- `X[0..N-1]` as a trace row records it, with `X[0] = 0` (R32). -/
def State.snapshot (s : State) : List Nat := 0 :: s.regs

/-- `u(x[i])`. -/
def State.regU (s : State) (i : Nat) : Nat := uView s.cfg.W (s.readReg i)

/-- `s(x[i])`. -/
def State.regS (s : State) (i : Nat) : Int := sView s.cfg.W (s.readReg i)

/-- `wrap` at the state's width. -/
def State.wrap (s : State) (z : Int) : Nat := Machine.wrap s.cfg.W z

/-- The decoded value of an immediate at the state's width (R108). -/
def State.imm (s : State) (imm : Int) : Nat := immValue s.cfg.W imm

/-- The effective address `wrap(u(x[rs1]) + imm)` of a load or store (R250). -/
def State.effectiveAddress (s : State) (rs1 : Nat) (imm : Int) : Nat := s.wrap (s.regU rs1 + imm)

/-- The target `wrap(pc + offset)` of a branch or JAL (R280). -/
def State.relativeTarget (s : State) (offset : Int) : Nat := s.wrap (s.pc + offset)

/-- The address of the next instruction, `(pc + 4) mod 2^W` (R25), also the link value (R287). -/
def State.nextPc (s : State) : Nat := (s.pc + 4) % 2 ^ s.cfg.W

/-- The register that holds the syscall number: a7 when N = 32, t0 when N = 16 (R331). -/
def State.syscallRegister (s : State) : Nat := if s.cfg.N = 16 then 5 else 17

/-- The six syscall arguments a0 to a5 (R331). -/
def State.syscallArgs (s : State) : List Nat :=
  [s.readReg 10, s.readReg 11, s.readReg 12, s.readReg 13, s.readReg 14, s.readReg 15]

end Sys2Proof.Machine
end

