-- ==== Sys2Proof/Machine/Flags.lean ====
section
/-! DEFINITION. The machine has no flags (R26): a comparison writes a register (SLT and its kin) or steers a branch or
an assertion. The comparisons stand here, each on the view R290, R309 and the instruction's rule give it. -/

namespace Sys2Proof.Machine

/-- Equality of the full register values (R290). -/
def State.regEq (s : State) (a b : Nat) : Bool := decide (s.readReg a = s.readReg b)

/-- Signed order, on the `s` views (R290). -/
def State.regLtS (s : State) (a b : Nat) : Bool := decide (s.regS a < s.regS b)

/-- Unsigned order, on the `u` views (R290). -/
def State.regLtU (s : State) (a b : Nat) : Bool := decide (s.regU a < s.regU b)

/-- A comparison's result in a register: 1 or 0 (R174). -/
def boolValue (b : Bool) : Nat := if b then 1 else 0

end Sys2Proof.Machine
end

