-- ==== Sys2Proof/Machine/Ops.lean ====
section
/-! DEFINITION. The operations every instruction is written with: memory (R60 to R70), the end of a cycle (R148), the
completion of an instruction (R147, R149), the one entry of a trap (R146, R354), control transfer (R280), and the
fetch and decode that precede execution (R141 to R144). There is no return from a trap (R355). -/

namespace Sys2Proof.Machine

/-! ### Memory -/

/-- The canonical form of memory: addresses strictly rising, no byte zero (an unlisted address reads as zero, R60). -/
def Memory.wf : List Host.Cell → Bool
  | [] => true
  | (a, v) :: m => v != 0 && m.all (fun c => decide (a < c.1)) && Memory.wf m

/-- `mem(a)`: zero where nothing is listed (R60, R72). -/
def Memory.read : List Host.Cell → Nat → Byte
  | [], _ => 0
  | (b, v) :: m, a => if a = b then v else Memory.read m a

/-- `mem(a) := v`, in canonical form. -/
def Memory.write : List Host.Cell → Nat → Byte → List Host.Cell
  | [], a, v => if v = 0 then [] else [(a, v)]
  | (b, x) :: m, a, v =>
    if a < b then (if v = 0 then (b, x) :: m else (a, v) :: (b, x) :: m)
    else if a = b then (if v = 0 then m else (a, v) :: m)
    else (b, x) :: Memory.write m a v

/-- `MemRead(addr, n)`, little-endian (R66). -/
def memRead (m : List Host.Cell) (addr : Nat) : Nat → Nat
  | 0 => 0
  | n + 1 => (Memory.read m addr).toNat + 256 * memRead m (addr + 1) n

/-- `MemWrite(addr, n, v)`, little-endian (R67). -/
def memWrite (m : List Host.Cell) (addr : Nat) : Nat → Nat → List Host.Cell
  | 0, _ => m
  | n + 1, v => memWrite (Memory.write m addr (BitVec.ofNat 8 v)) (addr + 1) n (v / 256)

/-- Bytes placed from `addr` upward: how an image's code and data stand in memory (R380). -/
def placeBytes (m : List Host.Cell) (addr : Nat) : List Byte → List Host.Cell
  | [] => m
  | b :: bs => placeBytes (Memory.write m addr b) (addr + 1) bs

/-- The number of bytes a width moves (R64). -/
def widthBytes : Width → Nat
  | .byte => 1
  | .half => 2
  | .word => 4

/-- All `n` bytes at `addr` lie in the segment of `size` bytes at `base` (R63; no wrapping). -/
def inSegment (base size addr n : Nat) : Bool := decide (base ≤ addr) && decide (addr + n ≤ base + size)

/-- `inCode(addr, n)` of R63. -/
def State.inCode (s : State) (addr n : Nat) : Bool := inSegment s.cfg.codeBase s.codeSize addr n

/-- `inData(addr, n)` of R63: all bytes in one of the data, heap and stack segments. -/
def State.inData (s : State) (addr n : Nat) : Bool :=
  inSegment s.cfg.dataBase s.dataSize addr n || inSegment s.cfg.heapBase s.cfg.heapSize addr n ||
    inSegment s.cfg.stackBase s.cfg.stackSize addr n

/-- `CheckData(addr, n)` of R68: alignment, then bounds. -/
def State.checkData (s : State) (addr n : Nat) : Option TrapReason :=
  if addr % n ≠ 0 then some (.misaligned addr)
  else if s.inData addr n then none
  else some (.outOfBounds addr)

/-- `mem(a)` of a state. -/
def State.readByte (s : State) (a : Nat) : Byte := Memory.read s.mem a

/-- The access-log entry of an access made in the current cycle (R70). -/
def State.access (s : State) (addr : Nat) (w : Width) (value : Nat) (kind : AccessKind) : Access :=
  { address := addr, width := widthBytes w, cycle := s.cycleCount, value := value, kind := kind }

/-- The `memory_access` of a row without one (R32). -/
def MemAccess.none : MemAccess := { address := 0, width := 0, value := 0, kind := Option.none }

/-- The `memory_access` of a load's or store's row (R149). -/
def Access.inRow (a : Access) : MemAccess :=
  { address := a.address, width := a.width, value := a.value, kind := some a.kind }

/-! ### The end of a cycle -/

/-- `cycle_count <- cycle_count + 1`, then the cycle-limit check (R148). -/
def State.endCycle (s : State) : State :=
  if s.status = .running ∧ s.limit ≤ s.cycleCount + 1 then
    { s with cycleCount := s.cycleCount + 1, status := .trapped .cycleLimitExceeded }
  else
    { s with cycleCount := s.cycleCount + 1 }

/-- Trap entry (R146, R354): the status and one row with the trap marker and unchanged registers; nothing else changes
but the cycle count. `i` is the decoded instruction, none when fetch or decode trapped. -/
def State.takeTrap (i : Option Instr) (r : TrapReason) (s : State) : State :=
  State.endCycle
    { s with
      status := .trapped r
      trace := s.trace ++
        [{ cycle := s.cycleCount, pc := s.pc, instr := i, before := s.snapshot, after := s.snapshot,
           access := MemAccess.none, trap := some r }] }

/-- The end of a cycle that did not trap (R147 to R149): `s` is the state at its start, `t` the state with the
instruction's effects and the new pc. -/
def State.retire (i : Instr) (acc : MemAccess) (s t : State) : State :=
  State.endCycle
    { t with
      trace := s.trace ++
        [{ cycle := s.cycleCount, pc := s.pc, instr := some i, before := s.snapshot, after := t.snapshot,
           access := acc, trap := Option.none }] }

/-- The outcome of a model whose instruction completed or trapped: a next state either way. -/
abbrev Result := Host.Outcome State Fault Refusal

/-- The instruction `i` traps (R146). -/
def trap (i : Instr) (r : TrapReason) (s : State) : Result := .next (s.takeTrap (some i) r)

/-- The instruction `i` completes with the state `t` and the pc goes to the next instruction (R147). -/
def complete (i : Instr) (s t : State) : Result :=
  .next (s.retire i MemAccess.none { t with pc := s.nextPc })

/-- The instruction `i` ends the run: the status is Halted and the pc stays (R147, R335). -/
def halt (i : Instr) (s t : State) : Result :=
  .next (s.retire i MemAccess.none { t with status := .halted })

/-- The instruction `i` writes `v` to `rd` and completes. -/
def writeResult (i : Instr) (rd v : Nat) (s : State) : Result := complete i s (s.writeReg rd v)

/-- The instruction `i` has no effect but the pc advance, unless its predicate fails (R309). -/
def requirePredicate (i : Instr) (holds : Bool) (r : TrapReason) (s : State) : Result :=
  if holds then complete i s s else trap i r s

/-! ### Loads, stores and control transfer -/

/-- The load template of R251. `ext` is the extension of the loaded value. -/
def load (i : Instr) (rd rs1 : Nat) (imm : Int) (w : Width) (ext : Nat → Nat) (s : State) : Result :=
  match s.checkData (s.effectiveAddress rs1 imm) (widthBytes w) with
  | some r => trap i r s
  | none =>
    let v := memRead s.mem (s.effectiveAddress rs1 imm) (widthBytes w)
    let a := s.access (s.effectiveAddress rs1 imm) w v .read
    .next (s.retire i a.inRow
      { s.writeReg rd (ext v) with accessLog := s.accessLog ++ [a], pc := s.nextPc })

/-- The store template of R257. -/
def store (i : Instr) (rs1 rs2 : Nat) (imm : Int) (w : Width) (s : State) : Result :=
  match s.checkData (s.effectiveAddress rs1 imm) (widthBytes w) with
  | some r => trap i r s
  | none =>
    let a := s.access (s.effectiveAddress rs1 imm) w (s.readReg rs2 % 256 ^ widthBytes w) .write
    .next (s.retire i a.inRow
      { s with
        mem := memWrite s.mem (s.effectiveAddress rs1 imm) (widthBytes w) (s.readReg rs2)
        accessLog := s.accessLog ++ [a]
        pc := s.nextPc })

/-- Control transfer to `target` with the register effects of `t` (R280): a target that is no multiple of 4 traps
before any effect. -/
def transfer (i : Instr) (target : Nat) (s t : State) : Result :=
  if target % 4 ≠ 0 then trap i (.misaligned target) s
  else .next (s.retire i MemAccess.none { t with pc := target })

/-- A branch: taken when `cond` holds, else the next instruction, whose target is not checked (R280). -/
def branch (i : Instr) (cond : Bool) (offset : Int) (s : State) : Result :=
  if cond then transfer i (s.relativeTarget offset) s s else complete i s s

/-! ### Fetch and decode -/

/-- Fetch: alignment, bounds, then the four bytes little-endian (R141 to R143). -/
def State.fetch (s : State) : Except TrapReason Word :=
  if s.pc % 4 ≠ 0 then .error (.misaligned s.pc)
  else if s.inCode s.pc 4 then .ok (BitVec.ofNat 32 (memRead s.mem s.pc 4))
  else .error (.invalidAddress s.pc)

/-- Fetch and decode; a word that does not decode raises InvalidInstruction (R144). -/
def State.fetchDecode (s : State) : Except TrapReason Instr :=
  match s.fetch with
  | .error r => .error r
  | .ok w =>
    match decode s.cfg.N w with
    | .ok i => .ok i
    | .error _ => .error (.invalidInstruction w)

/-- The numeric code of a trap reason (R350). -/
def TrapReason.code : TrapReason → Nat
  | .misaligned _ => 1
  | .outOfBounds _ => 2
  | .invalidAddress _ => 3
  | .invalidInstruction _ => 4
  | .divByZero => 5
  | .assertionFailed => 6
  | .rangeCheckFailed => 7
  | .unknownSyscall _ => 8
  | .inputExhausted _ => 9
  | .breakpoint => 10
  | .cycleLimitExceeded => 11
  | .syscallFailed => 12

/-! ### Placing a program from outside (log 2) -/

/-- A program counter the fetch can use: the state's own where it is aligned and not below the code segment, else
CODE_BASE. -/
def State.placePc (s : State) : Nat :=
  if s.pc % 4 = 0 ∧ s.cfg.codeBase ≤ s.pc then s.pc else s.cfg.codeBase

/-- `s` with one instruction word standing in the code segment at the pc, the segment long enough to hold it. -/
def State.placeWord (s : State) (w : Word) : State :=
  { s with
    pc := s.placePc
    mem := placeBytes s.mem s.placePc (bytesOfWord w)
    codeSize := max s.codeSize (s.placePc + 4 - s.cfg.codeBase)
    status := .running }

end Sys2Proof.Machine
end

