-- ==== Sys2Proof/Machine/Control.lean ====
section
/-! DEFINITION. Branches and jumps (R280 to R290). -/

namespace Sys2Proof.Machine

/-- BEQ (R281): full register values. -/
def execBeq (rs1 rs2 : Nat) (offset : Int) (s : State) : Result :=
  branch (.beq rs1 rs2 offset) (s.regEq rs1 rs2) offset s

/-- BNE (R282): full register values. -/
def execBne (rs1 rs2 : Nat) (offset : Int) (s : State) : Result :=
  branch (.bne rs1 rs2 offset) (!s.regEq rs1 rs2) offset s

/-- BLT (R283): signed views. -/
def execBlt (rs1 rs2 : Nat) (offset : Int) (s : State) : Result :=
  branch (.blt rs1 rs2 offset) (s.regLtS rs1 rs2) offset s

/-- BGE (R284): signed views. -/
def execBge (rs1 rs2 : Nat) (offset : Int) (s : State) : Result :=
  branch (.bge rs1 rs2 offset) (!s.regLtS rs1 rs2) offset s

/-- BLTU (R285): unsigned views. -/
def execBltu (rs1 rs2 : Nat) (offset : Int) (s : State) : Result :=
  branch (.bltu rs1 rs2 offset) (s.regLtU rs1 rs2) offset s

/-- BGEU (R286): unsigned views. -/
def execBgeu (rs1 rs2 : Nat) (offset : Int) (s : State) : Result :=
  branch (.bgeu rs1 rs2 offset) (!s.regLtU rs1 rs2) offset s

/-- JAL (R287). -/
def execJal (rd : Nat) (offset : Int) (s : State) : Result :=
  transfer (.jal rd offset) (s.relativeTarget offset) s (s.writeReg rd s.nextPc)

/-- The target of JALR (R288): bit 0 cleared, nothing else masked. -/
def jalrTarget (s : State) (rs1 : Nat) (imm : Int) : Nat :=
  s.wrap (s.regU rs1 + s.imm imm) - s.wrap (s.regU rs1 + s.imm imm) % 2

/-- JALR (R288): `rs1` is read before `rd` is written. -/
def execJalr (rd rs1 : Nat) (imm : Int) (s : State) : Result :=
  transfer (.jalr rd rs1 imm) (jalrTarget s rs1 imm) s (s.writeReg rd s.nextPc)

end Sys2Proof.Machine
end

