-- ==== Sys2Proof/Machine/Field.lean ====
section
/-! DEFINITION. Prime-field arithmetic on the full register values (R230 to R236). -/

namespace Sys2Proof.Machine

/-- `b^e mod m` for `e < 2^fuel`, by squaring. -/
def powMod (m : Nat) : (fuel b e : Nat) → Nat
  | 0, _, _ => 1 % m
  | fuel + 1, b, e =>
    if e = 0 then 1 % m
    else if e % 2 = 0 then powMod m fuel (b * b % m) (e / 2)
    else b * powMod m fuel (b * b % m) (e / 2) % m

/-- The multiplicative inverse as `a^(P-2) mod P` (R235; `P < 2^32`; log 10). -/
def fieldInverse (P a : Nat) : Nat := powMod P 32 (a % P) (P - 2)

/-- FADD (R231). -/
def execFadd (rd rs1 rs2 : Nat) (s : State) : Result :=
  writeResult (.fadd rd rs1 rs2) rd ((s.readReg rs1 + s.readReg rs2) % s.cfg.P) s

/-- FSUB (R232). -/
def execFsub (rd rs1 rs2 : Nat) (s : State) : Result :=
  writeResult (.fsub rd rs1 rs2) rd (((s.readReg rs1 : Int) - s.readReg rs2) % s.cfg.P).toNat s

/-- FMUL (R233). -/
def execFmul (rd rs1 rs2 : Nat) (s : State) : Result :=
  writeResult (.fmul rd rs1 rs2) rd (s.readReg rs1 * s.readReg rs2 % s.cfg.P) s

/-- FNEG (R234). -/
def execFneg (rd rs1 : Nat) (s : State) : Result :=
  writeResult (.fneg rd rs1) rd (((s.cfg.P : Int) - s.readReg rs1) % s.cfg.P).toNat s

/-- FINV (R235): a zero operand traps before any effect. -/
def execFinv (rd rs1 : Nat) (s : State) : Result :=
  if s.readReg rs1 = 0 then trap (.finv rd rs1) .divByZero s
  else writeResult (.finv rd rs1) rd (fieldInverse s.cfg.P (s.readReg rs1)) s

end Sys2Proof.Machine
end

