-- ==== Sys2Proof/Machine/Integer.lean ====
section
/-! DEFINITION. Integer register-register, register-immediate and upper-immediate instructions (R170 to R194). -/

namespace Sys2Proof.Machine

/-- ADD (R171). -/
def execAdd (rd rs1 rs2 : Nat) (s : State) : Result :=
  writeResult (.add rd rs1 rs2) rd (s.wrap (s.regU rs1 + s.regU rs2)) s

/-- SUB (R172). -/
def execSub (rd rs1 rs2 : Nat) (s : State) : Result :=
  writeResult (.sub rd rs1 rs2) rd (s.wrap (s.regU rs1 - s.regU rs2)) s

/-- SLL (R173). -/
def execSll (rd rs1 rs2 : Nat) (s : State) : Result :=
  writeResult (.sll rd rs1 rs2) rd (s.wrap (s.regU rs1 * 2 ^ shiftAmount s.cfg.W (s.regU rs2))) s

/-- SLT (R174). -/
def execSlt (rd rs1 rs2 : Nat) (s : State) : Result :=
  writeResult (.slt rd rs1 rs2) rd (boolValue (s.regLtS rs1 rs2)) s

/-- SLTU (R175). -/
def execSltu (rd rs1 rs2 : Nat) (s : State) : Result :=
  writeResult (.sltu rd rs1 rs2) rd (boolValue (s.regLtU rs1 rs2)) s

/-- XOR (R176). -/
def execXor (rd rs1 rs2 : Nat) (s : State) : Result :=
  writeResult (.xor rd rs1 rs2) rd (s.regU rs1 ^^^ s.regU rs2) s

/-- SRL (R177). -/
def execSrl (rd rs1 rs2 : Nat) (s : State) : Result :=
  writeResult (.srl rd rs1 rs2) rd (s.regU rs1 / 2 ^ shiftAmount s.cfg.W (s.regU rs2)) s

/-- SRA (R178): the quotient by a power of two, rounded toward minus infinity. -/
def execSra (rd rs1 rs2 : Nat) (s : State) : Result :=
  writeResult (.sra rd rs1 rs2) rd (s.wrap (s.regS rs1 / 2 ^ shiftAmount s.cfg.W (s.regU rs2))) s

/-- OR (R179). -/
def execOr (rd rs1 rs2 : Nat) (s : State) : Result :=
  writeResult (.or rd rs1 rs2) rd (s.regU rs1 ||| s.regU rs2) s

/-- AND (R180). -/
def execAnd (rd rs1 rs2 : Nat) (s : State) : Result :=
  writeResult (.and rd rs1 rs2) rd (s.regU rs1 &&& s.regU rs2) s

/-- ADDI (R181). -/
def execAddi (rd rs1 : Nat) (imm : Int) (s : State) : Result :=
  writeResult (.addi rd rs1 imm) rd (s.wrap (s.regU rs1 + s.imm imm)) s

/-- SLTI (R182): the immediate is read through its signed view. -/
def execSlti (rd rs1 : Nat) (imm : Int) (s : State) : Result :=
  writeResult (.slti rd rs1 imm) rd (boolValue (decide (s.regS rs1 < sView s.cfg.W (s.imm imm)))) s

/-- SLTIU (R183): the immediate is sign-extended, then compared unsigned. -/
def execSltiu (rd rs1 : Nat) (imm : Int) (s : State) : Result :=
  writeResult (.sltiu rd rs1 imm) rd (boolValue (decide (s.regU rs1 < s.imm imm))) s

/-- XORI (R184). -/
def execXori (rd rs1 : Nat) (imm : Int) (s : State) : Result :=
  writeResult (.xori rd rs1 imm) rd (s.regU rs1 ^^^ s.imm imm) s

/-- ORI (R185). -/
def execOri (rd rs1 : Nat) (imm : Int) (s : State) : Result :=
  writeResult (.ori rd rs1 imm) rd (s.regU rs1 ||| s.imm imm) s

/-- ANDI (R186). -/
def execAndi (rd rs1 : Nat) (imm : Int) (s : State) : Result :=
  writeResult (.andi rd rs1 imm) rd (s.regU rs1 &&& s.imm imm) s

/-- SLLI (R187). -/
def execSlli (rd rs1 shamt : Nat) (s : State) : Result :=
  writeResult (.slli rd rs1 shamt) rd (s.wrap (s.regU rs1 * 2 ^ shiftAmount s.cfg.W shamt)) s

/-- SRLI (R188). -/
def execSrli (rd rs1 shamt : Nat) (s : State) : Result :=
  writeResult (.srli rd rs1 shamt) rd (s.regU rs1 / 2 ^ shiftAmount s.cfg.W shamt) s

/-- SRAI (R189). -/
def execSrai (rd rs1 shamt : Nat) (s : State) : Result :=
  writeResult (.srai rd rs1 shamt) rd (s.wrap (s.regS rs1 / 2 ^ shiftAmount s.cfg.W shamt)) s

/-- LUI (R190). -/
def execLui (rd imm20 : Nat) (s : State) : Result :=
  writeResult (.lui rd imm20) rd (s.wrap (imm20 * 2 ^ 12)) s

/-- AUIPC (R191). -/
def execAuipc (rd imm20 : Nat) (s : State) : Result :=
  writeResult (.auipc rd imm20) rd (s.wrap (s.pc + imm20 * 2 ^ 12)) s

end Sys2Proof.Machine
end

