-- ==== Sys2Proof/Machine/Io.lean ====
section
/-! DEFINITION. I/O, commitments, assertions and range checks (R300 to R309). -/

namespace Sys2Proof.Machine

/-- READ (R300). -/
def execRead (rd : Nat) (s : State) : Result :=
  match s.inputs[s.inputCursor]? with
  | none => trap (.read rd) (.inputExhausted .input) s
  | some v => complete (.read rd) s { s.writeReg rd v with inputCursor := s.inputCursor + 1 }

/-- HINT (R301). -/
def execHint (rd : Nat) (s : State) : Result :=
  match s.hints[s.hintCursor]? with
  | none => trap (.hint rd) (.inputExhausted .hint) s
  | some v => complete (.hint rd) s { s.writeReg rd v with hintCursor := s.hintCursor + 1 }

/-- WRITE (R302): the full register value. -/
def execWrite (rs1 : Nat) (s : State) : Result :=
  complete (.write rs1) s { s with outputs := s.outputs ++ [s.readReg rs1] }

/-- COMMIT (R303): the full register value. -/
def execCommit (rs1 : Nat) (s : State) : Result :=
  complete (.commit rs1) s { s with commitments := s.commitments ++ [s.readReg rs1] }

/-- ASSERT_EQ (R304). -/
def execAssertEq (rs1 rs2 : Nat) (s : State) : Result :=
  requirePredicate (.assertEq rs1 rs2) (s.regEq rs1 rs2) .assertionFailed s

/-- ASSERT_NE (R305). -/
def execAssertNe (rs1 rs2 : Nat) (s : State) : Result :=
  requirePredicate (.assertNe rs1 rs2) (!s.regEq rs1 rs2) .assertionFailed s

/-- ASSERT_ZERO (R306). -/
def execAssertZero (rs1 : Nat) (s : State) : Result :=
  requirePredicate (.assertZero rs1) (decide (s.readReg rs1 = 0)) .assertionFailed s

/-- RANGE_CHECK (R307): the full register value. -/
def execRangeCheck (rs1 bits : Nat) (s : State) : Result :=
  requirePredicate (.rangeCheck rs1 bits) (decide (s.readReg rs1 < 2 ^ bits)) .rangeCheckFailed s

end Sys2Proof.Machine
end

