-- ==== Sys2Proof/Machine/LoadStore.lean ====
section
/-! DEFINITION. Loads and stores (R250 to R262), over the templates `load` and `store`. -/

namespace Sys2Proof.Machine

/-- LB (R252): sign-extended to W bits. -/
def execLb (rd rs1 : Nat) (imm : Int) (s : State) : Result :=
  load (.lb rd rs1 imm) rd rs1 imm .byte (fun v => sext s.cfg.W v 8) s

/-- LH (R253): sign-extended to W bits. -/
def execLh (rd rs1 : Nat) (imm : Int) (s : State) : Result :=
  load (.lh rd rs1 imm) rd rs1 imm .half (fun v => sext s.cfg.W v 16) s

/-- LW (R254): no extension; the register write reduces modulo P. -/
def execLw (rd rs1 : Nat) (imm : Int) (s : State) : Result :=
  load (.lw rd rs1 imm) rd rs1 imm .word (fun v => v) s

/-- LBU (R255). -/
def execLbu (rd rs1 : Nat) (imm : Int) (s : State) : Result :=
  load (.lbu rd rs1 imm) rd rs1 imm .byte (fun v => v) s

/-- LHU (R256). -/
def execLhu (rd rs1 : Nat) (imm : Int) (s : State) : Result :=
  load (.lhu rd rs1 imm) rd rs1 imm .half (fun v => v) s

/-- SB (R258). -/
def execSb (rs1 rs2 : Nat) (imm : Int) (s : State) : Result :=
  store (.sb rs1 rs2 imm) rs1 rs2 imm .byte s

/-- SH (R259). -/
def execSh (rs1 rs2 : Nat) (imm : Int) (s : State) : Result :=
  store (.sh rs1 rs2 imm) rs1 rs2 imm .half s

/-- SW (R260): the full field value. -/
def execSw (rs1 rs2 : Nat) (imm : Int) (s : State) : Result :=
  store (.sw rs1 rs2 imm) rs1 rs2 imm .word s

end Sys2Proof.Machine
end

