-- ==== Sys2Proof/Machine/MulDiv.lean ====
section
/-! DEFINITION. Integer multiply, divide and remainder (R210 to R217). -/

namespace Sys2Proof.Machine

/-- The template of the division instructions: a divisor whose W-bit view is zero traps before any effect (R217). -/
def divide (i : Instr) (rd rs2 result : Nat) (s : State) : Result :=
  if s.regU rs2 = 0 then trap i .divByZero s else writeResult i rd result s

/-- MUL (R211). -/
def execMul (rd rs1 rs2 : Nat) (s : State) : Result :=
  writeResult (.mul rd rs1 rs2) rd (s.wrap (s.regU rs1 * s.regU rs2)) s

/-- DIV (R212): the quotient rounded toward zero, wrapped. -/
def execDiv (rd rs1 rs2 : Nat) (s : State) : Result :=
  divide (.div rd rs1 rs2) rd rs2 (s.wrap ((s.regS rs1).tdiv (s.regS rs2))) s

/-- DIVU (R213). -/
def execDivu (rd rs1 rs2 : Nat) (s : State) : Result :=
  divide (.divu rd rs1 rs2) rd rs2 (s.regU rs1 / s.regU rs2) s

/-- REM (R214): the remainder with the dividend's sign, wrapped. -/
def execRem (rd rs1 rs2 : Nat) (s : State) : Result :=
  divide (.rem rd rs1 rs2) rd rs2 (s.wrap ((s.regS rs1).tmod (s.regS rs2))) s

/-- REMU (R215). -/
def execRemu (rd rs1 rs2 : Nat) (s : State) : Result :=
  divide (.remu rd rs1 rs2) rd rs2 (s.regU rs1 % s.regU rs2) s

end Sys2Proof.Machine
end

