-- ==== Sys2Proof/Machine/System.lean ====
section
/-! DEFINITION. ECALL and the syscall interface, EBREAK, HALT, DEBUG (R330 to R336). -/

namespace Sys2Proof.Machine

/-- The outcomes of R332. `ok` and `exit` carry the memory and the log entries of the provider's accesses. -/
inductive ProviderOutcome
  | ok (r : Results) (mem : List Host.Cell) (log : List Access)
  | trap (r : TrapReason)
  | err (code : Nat)
  | exit (mem : List Host.Cell) (log : List Access)
  deriving DecidableEq, Repr

/-- A provider's course against the memory unit (R79, R332): each access is checked as a load's or store's is, the
first that fails decides the outcome, and each that succeeds is logged in the order performed. -/
def runProc (s : State) : Proc → List Host.Cell → List Access → ProviderOutcome
  | .ok r, m, log => .ok r m log
  | .err code, _, _ => .err code
  | .exit, m, log => .exit m log
  | .load addr w next, m, log =>
    match s.checkData addr (widthBytes w) with
    | some r => .trap r
    | none =>
      runProc s (next (memRead m addr (widthBytes w))) m
        (log ++ [s.access addr w (memRead m addr (widthBytes w)) .read])
  | .store addr w value next, m, log =>
    match s.checkData addr (widthBytes w) with
    | some r => .trap r
    | none =>
      runProc s next (memWrite m addr (widthBytes w) value)
        (log ++ [s.access addr w (value % 256 ^ widthBytes w) .write])

/-- The value of a script's term, given the arguments and the values loaded so far (log 3). -/
def evalTerm (W : Nat) (args loads : List Nat) : Term → Nat
  | .lit n => n
  | .arg i => args.getD i 0
  | .loaded k => loads.getD k 0
  | .view t => uView W (evalTerm W args loads t)
  | .add a b => evalTerm W args loads a + evalTerm W args loads b
  | .mul a b => evalTerm W args loads a * evalTerm W args loads b

/-- The course a script takes on its arguments (log 3). -/
def scriptProc (W : Nat) (args : List Nat) : Script → List Nat → Proc
  | .ok0, _ => .ok .zero
  | .ok1 r0, loads => .ok (.one (evalTerm W args loads r0))
  | .ok2 r0 r1, loads => .ok (.two (evalTerm W args loads r0) (evalTerm W args loads r1))
  | .err code, _ => .err code
  | .exit, _ => .exit
  | .load addr w rest, loads =>
    .load (evalTerm W args loads addr) w (fun v => scriptProc W args rest (loads ++ [v]))
  | .store addr w value rest, loads =>
    .store (evalTerm W args loads addr) w (evalTerm W args loads value) (scriptProc W args rest loads)
  | .ifEq a b yes no, loads =>
    if evalTerm W args loads a = evalTerm W args loads b then scriptProc W args yes loads
    else scriptProc W args no loads

/-- The course of a provider on its arguments (R333). -/
def providerProc (W : Nat) (args : List Nat) : Provider → Proc
  | .foreign id => Config.foreignProvider id args
  | .script code => scriptProc W args code []

/-- The provider of a syscall number, none if the table has none (R333). -/
def findProvider : List (Nat × Provider) → Nat → Option Provider
  | [], _ => none
  | (k, p) :: rest, n => if n = k then some p else findProvider rest n

/-- The results written to a0 and then a1 (R332). -/
def State.writeResults (s : State) : Results → State
  | .zero => s
  | .one r0 => s.writeReg 10 r0
  | .two r0 r1 => (s.writeReg 10 r0).writeReg 11 r1

/-- The outcome of a provider applied to the state (R332). The row's `memory_access` is None (R149). -/
def applyOutcome (s : State) : ProviderOutcome → Result
  | .ok r m log =>
    complete .ecall s { s.writeResults r with mem := m, accessLog := s.accessLog ++ log }
  | .trap r => trap .ecall r s
  | .err _ => trap .ecall .syscallFailed s
  | .exit m log => halt .ecall s { s with mem := m, accessLog := s.accessLog ++ log }

/-- ECALL (R330). -/
def execEcall (s : State) : Result :=
  match findProvider s.cfg.syscalls (s.readReg s.syscallRegister) with
  | none => trap .ecall (.unknownSyscall (s.readReg s.syscallRegister)) s
  | some p => applyOutcome s (runProc s (providerProc s.cfg.W s.syscallArgs p) s.mem [])

/-- EBREAK (R334). -/
def execEbreak (s : State) : Result := trap .ebreak .breakpoint s

/-- HALT (R335). -/
def execHalt (s : State) : Result := halt .halt s s

/-- DEBUG (R336): the pc advances, nothing else. -/
def execDebug (rs1 : Nat) (s : State) : Result := complete (.debug rs1) s s

end Sys2Proof.Machine
end

