-- ==== Sys2Proof/Machine/Step.lean ====
section
/-! DEFINITION. One cycle (R140, R150), and the placing of an instruction where the next fetch reads it. -/

namespace Sys2Proof.Machine

/-- One cycle, from `Running` only (R140): fetch and decode, whose traps are taken here, then the instruction's
meaning, which ends the cycle itself (R146 to R149). -/
def step (s : State) : Host.Outcome State Fault Refusal :=
  match s.status with
  | .running =>
    match s.fetchDecode with
    | .error r => .next (s.takeTrap none r)
    | .ok i => exec i s
  | .halted => .fault (.runEnded .halted)
  | .trapped r => .fault (.runEnded (.trapped r))

/-- `s` with a table row's word standing where `step` fetches its next instruction (log 2, log 9). -/
def State.withFetchWord (s : State) (nbits w : Nat) : State := s.placeWord (tableWord nbits w)

end Sys2Proof.Machine
end

