-- ==== Sys2Proof/Machine/Run.lean ====
section
/-! DEFINITION. A run (R34, R151): the image and its container (R381), the constraints on configuration and image (R6,
D16, D52), reset (R380), the cycles until the run ends, and the result (R38). -/

namespace Sys2Proof.Machine

/-! ### The image -/

/-- The decoded image the loader hands over (R34). -/
structure Image where
  entryPoint : Nat
  code : List Byte
  data : List Byte
  bssSize : Nat
  deriving DecidableEq, Repr

/-- The little-endian 32-bit field at byte offset `off` of a container's header (R381). -/
def headerField (bytes : List Byte) (off : Nat) : Nat :=
  (wordOfBytes (bytes.getD off 0) (bytes.getD (off + 1) 0) (bytes.getD (off + 2) 0) (bytes.getD (off + 3) 0)).toNat

/-- The image in a container laid out as R381 says, for a loader that wants the given magic and version (D40). The
flags at offset 8 and everything after the data section are ignored (D51). Log 8. -/
def Image.ofContainer (magic version : Nat) (bytes : List Byte) : Option Image :=
  if bytes.length < 28 then none
  else if headerField bytes 0 ≠ magic ∨ headerField bytes 4 ≠ version then none
  else if bytes.length < 28 + headerField bytes 16 + headerField bytes 20 then none
  else some
    { entryPoint := headerField bytes 12
      code := (bytes.drop 28).take (headerField bytes 16)
      data := (bytes.drop (28 + headerField bytes 16)).take (headerField bytes 20)
      bssSize := headerField bytes 24 }

/-! ### The constraints -/

/-- Two segments share no address; a segment of size 0 contains none (R61), so it meets no other (log 16). -/
abbrev apart (a b : Nat × Nat) : Prop := a.2 = 0 ∨ b.2 = 0 ∨ a.1 + a.2 ≤ b.1 ∨ b.1 + b.2 ≤ a.1

/-- The four segments as (base, size) pairs (R61). -/
def segments (c : Config) (codeSize dataSize : Nat) : List (Nat × Nat) :=
  [(c.codeBase, codeSize), (c.dataBase, dataSize), (c.heapBase, c.heapSize), (c.stackBase, c.stackSize)]

/-- The segments are pairwise disjoint and lie inside `[0, 2^W)` (R6, D16, D52). DESIGN CHOICE (log 18): a segment of
size 0 lies inside exactly when its base is at most `2^W`. -/
abbrev SegmentsFit (c : Config) (codeSize dataSize : Nat) : Prop :=
  (∀ g ∈ segments c codeSize dataSize, g.1 + g.2 ≤ 2 ^ c.W) ∧ (segments c codeSize dataSize).Pairwise apart

/-- The constraints on `P`, `W` and `N` (R6). -/
abbrev NumbersValid (c : Config) : Prop :=
  c.P.Prime ∧ 2 ^ c.W < c.P ∧ c.P < 2 ^ 32 ∧ 16 ≤ c.W ∧ (c.N = 16 ∨ c.N = 32)

/-- Every base and every configured size is a multiple of 4 (R6, D16). -/
abbrev BasesValid (c : Config) : Prop :=
  c.codeBase % 4 = 0 ∧ c.dataBase % 4 = 0 ∧ c.heapBase % 4 = 0 ∧ c.heapSize % 4 = 0 ∧ c.stackBase % 4 = 0 ∧
    c.stackSize % 4 = 0

/-- SYSCALLS is a map from field elements (D29): no number twice, each below P (log 12). -/
abbrev SyscallsValid (c : Config) : Prop :=
  (c.syscalls.map Prod.fst).Nodup ∧ ∀ p ∈ c.syscalls, p.1 < c.P

/-- A configuration that breaks no constraint of R6. -/
abbrev ConfigValid (c : Config) : Prop :=
  NumbersValid c ∧ BasesValid c ∧ SyscallsValid c ∧ SegmentsFit c 0 0

/-! ### Reset -/

/-- The state after reset (R380). -/
def State.initial (c : Config) (img : Image) (inputs hints : List Nat) (limit : Nat) : State where
  cfg := c
  codeSize := img.code.length
  dataSize := img.data.length + img.bssSize
  limit := limit
  inputs := inputs
  hints := hints
  regs := List.replicate (c.N - 1) 0
  pc := img.entryPoint
  mem := placeBytes (placeBytes [] c.codeBase img.code) c.dataBase img.data
  status := if limit = 0 then .trapped .cycleLimitExceeded else .running
  inputCursor := 0
  hintCursor := 0
  outputs := []
  commitments := []
  cycleCount := 0
  trace := []
  accessLog := []

/-- Reset (R380): a configuration or an image that breaks the constraints is refused, no run exists for it. -/
def boot (c : Config) (img : Image) (inputs hints : List Nat) (limit : Nat) : Result :=
  if ConfigValid c then
    if SegmentsFit c img.code.length (img.data.length + img.bssSize) then
      .next (State.initial c img inputs hints limit)
    else .refused .imageDoesNotFit
  else .refused .invalidConfiguration

/-! ### Cycles and result -/

/-- At most `k` cycles: `step` while the status is Running (R151). -/
def runCycles : Nat → State → State
  | 0, s => s
  | k + 1, s =>
    match step s with
    | .next t => runCycles k t
    | .fault _ => s
    | .refused _ => s

/-- `run(image, inputs, hints, cycle_limit)` (R34): reset, then cycles until the run has ended. -/
def run (c : Config) (img : Image) (inputs hints : List Nat) (limit : Nat) : Result :=
  match boot c img inputs hints limit with
  | .next s => .next (runCycles limit s)
  | .fault f => .fault f
  | .refused r => .refused r

/-- The ExecutionResult of R38. -/
structure ExecutionResult where
  outputs : List Nat
  commitments : List Nat
  status : Status
  trace : List TraceRow
  accessLog : List Access
  final : State
  deriving DecidableEq, Repr

/-- The result of a run that has ended, which is when the status is not Running (R38, R152). -/
def State.result (s : State) : Option ExecutionResult :=
  if s.status = .running then none
  else some
    { outputs := s.outputs, commitments := s.commitments, status := s.status, trace := s.trace,
      accessLog := s.accessLog, final := s }

end Sys2Proof.Machine
end

