-- ==== Sys2Proof/Safety.lean ====
section
/-! DEFINITION. What claims are stated with: the invariant of a run, the end of a run, and what a cycle that completes,
halts or traps may change. -/

namespace Sys2Proof.Machine

/-! ### The invariant -/

/-- What holds of every state of a run. -/
structure State.Inv (s : State) : Prop where
  /-- The configuration breaks no constraint (R6). -/
  config : ConfigValid s.cfg
  /-- The segments are disjoint and inside the address space (D16, D52). -/
  segmentsFit : SegmentsFit s.cfg s.codeSize s.dataSize
  /-- The file holds `X[1..N-1]` (R21). -/
  registerCount : s.regs.length = s.cfg.N - 1
  /-- "no stored register ... value ever exceeds `p-1`" (R21). -/
  registerBound : ∀ v ∈ s.regs, v < s.cfg.P
  /-- Memory has its canonical form. -/
  memoryForm : Memory.wf s.mem = true
  /-- Addresses are W-bit (R60). -/
  memoryBound : ∀ c ∈ s.mem, c.1 < 2 ^ s.cfg.W
  /-- Only the first fetch can find a misaligned pc (R141), and a pc the machine computes is W-bit (R25). -/
  pcAligned : s.status = .running → s.cycleCount ≠ 0 → s.pc % 4 = 0 ∧ s.pc < 2 ^ s.cfg.W
  /-- "A cursor never exceeds its sequence's length" (R29). -/
  inputCursor : s.inputCursor ≤ s.inputs.length
  hintCursor : s.hintCursor ≤ s.hints.length
  /-- Outputs and commitments are field elements (R30). -/
  outputBound : ∀ v ∈ s.outputs, v < s.cfg.P
  commitmentBound : ∀ v ∈ s.commitments, v < s.cfg.P
  /-- The cycle count equals the number of trace rows (R154). -/
  rowsCounted : s.trace.length = s.cycleCount
  /-- "since at most `L` cycles run it never exceeds `L`" (R28). -/
  countBound : s.cycleCount ≤ s.limit
  /-- A state at the limit is not Running (R148). -/
  runningBelowLimit : s.status = .running → s.cycleCount < s.limit

/-- "the run has ended exactly when `status != Running`" (R152). -/
def State.Ended (s : State) : Prop := s.status ≠ .running

/-- `i` can be executed in `s`: the invariant holds, the machine is Running and `i` is well-formed for its `N`
registers (R114). No instruction is privileged (R358), so nothing else is asked. -/
def Ready (i : Instr) (s : State) : Prop := s.Inv ∧ s.status = .running ∧ i.wellFormed s.cfg.N = true

/-- The word `w` decodes to `i` on the machine of `s`. -/
def Decodes (s : State) (w : Word) (i : Instr) : Prop := decode s.cfg.N w = .ok i

/-! ### Words, field by field (R101 to R107) -/

/-- The R-format word with these fields (R102); I-shift and RANGE_CHECK put `shamt` and `bits` in place of `rs2`. -/
def rWord (opcode funct3 funct7 rd rs1 rs2 : Nat) : Word :=
  BitVec.ofNat 32 (opcode + rd * 2 ^ 7 + funct3 * 2 ^ 12 + rs1 * 2 ^ 15 + rs2 * 2 ^ 20 + funct7 * 2 ^ 25)

/-- The I-format word with these fields (R103). -/
def iWord (opcode funct3 rd rs1 : Nat) (imm : Int) : Word :=
  BitVec.ofNat 32 (opcode + rd * 2 ^ 7 + funct3 * 2 ^ 12 + rs1 * 2 ^ 15 + (imm % 2 ^ 12).toNat * 2 ^ 20)

/-- The S-format word with these fields (R104). -/
def sWord (opcode funct3 rs1 rs2 : Nat) (imm : Int) : Word :=
  BitVec.ofNat 32 (opcode + (imm % 2 ^ 12).toNat % 2 ^ 5 * 2 ^ 7 + funct3 * 2 ^ 12 + rs1 * 2 ^ 15 + rs2 * 2 ^ 20 +
    (imm % 2 ^ 12).toNat / 2 ^ 5 * 2 ^ 25)

/-- The B-format word with these fields (R105). -/
def bWord (opcode funct3 rs1 rs2 : Nat) (offset : Int) : Word :=
  BitVec.ofNat 32 (opcode + (offset % 2 ^ 13).toNat / 2 ^ 11 % 2 * 2 ^ 7 + (offset % 2 ^ 13).toNat / 2 % 2 ^ 4 * 2 ^ 8 +
    funct3 * 2 ^ 12 + rs1 * 2 ^ 15 + rs2 * 2 ^ 20 + (offset % 2 ^ 13).toNat / 2 ^ 5 % 2 ^ 6 * 2 ^ 25 +
    (offset % 2 ^ 13).toNat / 2 ^ 12 * 2 ^ 31)

/-- The U-format word with these fields (R106). -/
def uWord (opcode rd imm20 : Nat) : Word := BitVec.ofNat 32 (opcode + rd * 2 ^ 7 + imm20 * 2 ^ 12)

/-- The J-format word with these fields (R107). -/
def jWord (opcode rd : Nat) (offset : Int) : Word :=
  BitVec.ofNat 32 (opcode + rd * 2 ^ 7 + (offset % 2 ^ 21).toNat / 2 ^ 12 % 2 ^ 8 * 2 ^ 12 +
    (offset % 2 ^ 21).toNat / 2 ^ 11 % 2 * 2 ^ 20 + (offset % 2 ^ 21).toNat / 2 % 2 ^ 10 * 2 ^ 21 +
    (offset % 2 ^ 21).toNat / 2 ^ 20 * 2 ^ 31)

/-! ### What a cycle changes -/

/-- What is fixed for a run is the same in both states (R29, R382). -/
structure SameRun (s t : State) : Prop where
  cfg : t.cfg = s.cfg
  codeSize : t.codeSize = s.codeSize
  dataSize : t.dataSize = s.dataSize
  limit : t.limit = s.limit
  inputs : t.inputs = s.inputs
  hints : t.hints = s.hints

/-- `t` has one row more than `s`, with the start of the cycle from `s` and its end from `t` (R149). -/
def RowAdded (s t : State) (i : Option Instr) (acc : MemAccess) (r : Option TrapReason) : Prop :=
  t.trace = s.trace ++
    [{ cycle := s.cycleCount, pc := s.pc, instr := i, before := s.snapshot, after := t.snapshot, access := acc,
       trap := r }]

/-- The status after a cycle of `s` that left it Running (R148). -/
def statusAfter (s : State) : Status :=
  if s.limit ≤ s.cycleCount + 1 then .trapped .cycleLimitExceeded else .running

/-- The frame of the I/O side: cursors and buffers are the same (R29, R30). -/
structure SameIO (s t : State) : Prop where
  inputCursor : t.inputCursor = s.inputCursor
  hintCursor : t.hintCursor = s.hintCursor
  outputs : t.outputs = s.outputs
  commitments : t.commitments = s.commitments

/-- Every register reads the same. -/
def SameRegs (s t : State) : Prop := ∀ r, t.readReg r = s.readReg r

/-- Register `rd` reads `v` and every other register reads the same; x0 reads the same whatever was written (R21). -/
def RegWritten (rd v : Nat) (s t : State) : Prop :=
  ∀ r, t.readReg r = if r = rd ∧ r ≠ 0 then v else s.readReg r

/-- Every byte of memory reads the same. -/
def SameBytes (s t : State) : Prop := ∀ a, t.readByte a = s.readByte a

/-- What every cycle of the instruction `i` that neither traps nor halts does: one row, one cycle counted, the run's
constants kept (R147 to R149). -/
structure Cycled (i : Instr) (acc : MemAccess) (s t : State) : Prop where
  run : SameRun s t
  row : RowAdded s t (some i) acc none
  count : t.cycleCount = s.cycleCount + 1
  status : t.status = statusAfter s

/-- `i` completes, writes `v` to `rd`, advances the pc by 4 and changes nothing else. -/
def CompletesWith (i : Instr) (rd v : Nat) (s : State) : Prop :=
  ∃ t, exec i s = .next t ∧ Cycled i MemAccess.none s t ∧ t.pc = (s.pc + 4) % 2 ^ s.cfg.W ∧ RegWritten rd v s t ∧
    SameBytes s t ∧ SameIO s t ∧ t.accessLog = s.accessLog

/-- `i` completes, advances the pc by 4 and changes nothing else. -/
def CompletesSilently (i : Instr) (s : State) : Prop :=
  ∃ t, exec i s = .next t ∧ Cycled i MemAccess.none s t ∧ t.pc = (s.pc + 4) % 2 ^ s.cfg.W ∧ SameRegs s t ∧
    SameBytes s t ∧ SameIO s t ∧ t.accessLog = s.accessLog

/-- `i` completes and continues at `target`, with `v` in `rd`, and changes nothing else. -/
def JumpsTo (i : Instr) (target rd v : Nat) (s : State) : Prop :=
  ∃ t, exec i s = .next t ∧ Cycled i MemAccess.none s t ∧ t.pc = target ∧ RegWritten rd v s t ∧ SameBytes s t ∧
    SameIO s t ∧ t.accessLog = s.accessLog

/-- `i` completes and continues at `target`, and changes nothing else. -/
def GoesTo (i : Instr) (target : Nat) (s : State) : Prop :=
  ∃ t, exec i s = .next t ∧ Cycled i MemAccess.none s t ∧ t.pc = target ∧ SameRegs s t ∧ SameBytes s t ∧
    SameIO s t ∧ t.accessLog = s.accessLog

/-- `i` loads: it completes with `result` in `rd`, the `n`-byte access at `ea` that moved `v` in the row and in the
log, the pc advanced by 4, and nothing else changed (R251). -/
def LoadsTo (i : Instr) (ea n v rd result : Nat) (s : State) : Prop :=
  ∃ t, exec i s = .next t ∧
    Cycled i { address := ea, width := n, value := v, kind := some .read } s t ∧ t.pc = (s.pc + 4) % 2 ^ s.cfg.W ∧
    RegWritten rd result s t ∧ SameBytes s t ∧ SameIO s t ∧
    t.accessLog = s.accessLog ++ [{ address := ea, width := n, cycle := s.cycleCount, value := v, kind := .read }]

/-- `i` stores: it completes with the `n` low bytes of `v` at `ea`, lowest first, the access in the row and in the
log, the pc advanced by 4; every other byte and every register are the same (R257). -/
def StoresTo (i : Instr) (ea n v : Nat) (s : State) : Prop :=
  ∃ t, exec i s = .next t ∧
    Cycled i { address := ea, width := n, value := v % 256 ^ n, kind := some .write } s t ∧
    t.pc = (s.pc + 4) % 2 ^ s.cfg.W ∧ SameRegs s t ∧ SameIO s t ∧
    (∀ k, k < n → (t.readByte (ea + k)).toNat = v / 256 ^ k % 256) ∧
    (∀ a, a < ea ∨ ea + n ≤ a → t.readByte a = s.readByte a) ∧
    t.accessLog = s.accessLog ++
      [{ address := ea, width := n, cycle := s.cycleCount, value := v % 256 ^ n, kind := .write }]

/-- A trap for reason `r` is all that happens between `s` and `t` (R146, R354). -/
structure TrapEntered (i : Option Instr) (r : TrapReason) (s t : State) : Prop where
  run : SameRun s t
  status : t.status = .trapped r
  row : RowAdded s t i MemAccess.none (some r)
  count : t.cycleCount = s.cycleCount + 1
  regs : t.regs = s.regs
  pc : t.pc = s.pc
  mem : t.mem = s.mem
  io : SameIO s t
  log : t.accessLog = s.accessLog

/-- `i` traps for reason `r` and has no effect. -/
def TrapsWith (i : Instr) (r : TrapReason) (s : State) : Prop :=
  ∃ t, exec i s = .next t ∧ TrapEntered (some i) r s t

/-- `i` ends the run with the memory `m` and the log entries `log`: the status is Halted, the pc stays, one row without
a trap marker is added, and nothing else changes (R147, R332, R335). -/
def HaltsWith (i : Instr) (m : List Host.Cell) (log : List Access) (s : State) : Prop :=
  ∃ t, exec i s = .next t ∧ SameRun s t ∧ RowAdded s t (some i) MemAccess.none Option.none ∧
    t.cycleCount = s.cycleCount + 1 ∧ t.status = .halted ∧ t.pc = s.pc ∧ SameRegs s t ∧ t.mem = m ∧ SameIO s t ∧
    t.accessLog = s.accessLog ++ log

/-! ### Operands, written out from R8, R63, R66 and R250 -/

/-- The unsigned `W`-bit view of register `r` (R8). -/
def u (s : State) (r : Nat) : Nat := s.readReg r % 2 ^ s.cfg.W

/-- The signed view of register `r` (R8): the representative of its value modulo `2^W` in `[-2^(W-1), 2^(W-1))`. -/
def sg (s : State) (r : Nat) : Int := (s.readReg r : Int).bmod (2 ^ s.cfg.W)

/-- The effective address of a load or store (R250). -/
def ea (s : State) (rs1 : Nat) (imm : Int) : Nat := (((u s rs1 : Int) + imm) % 2 ^ s.cfg.W).toNat

/-- The target of a branch or JAL (R280). -/
def target (s : State) (offset : Int) : Nat := (((s.pc : Int) + offset) % 2 ^ s.cfg.W).toNat

/-- The little-endian value of the `n` bytes at `a` (R66). -/
def valueAt (s : State) (a n : Nat) : Nat := ∑ k ∈ Finset.range n, 256 ^ k * (s.readByte (a + k)).toNat

/-- All `n` bytes at `a` lie in the code segment (R63). -/
def CodeAt (s : State) (a n : Nat) : Prop := s.cfg.codeBase ≤ a ∧ a + n ≤ s.cfg.codeBase + s.codeSize

/-- All `n` bytes at `a` lie in one of the data, heap and stack segments (R63). -/
def DataAt (s : State) (a n : Nat) : Prop :=
  (s.cfg.dataBase ≤ a ∧ a + n ≤ s.cfg.dataBase + s.dataSize) ∨
    (s.cfg.heapBase ≤ a ∧ a + n ≤ s.cfg.heapBase + s.cfg.heapSize) ∨
    (s.cfg.stackBase ≤ a ∧ a + n ≤ s.cfg.stackBase + s.cfg.stackSize)

/-- A load or store `i` of the `n` bytes at `a` traps `Misaligned(a)` when `a` is no multiple of `n`, wherever it points,
and `OutOfBounds(a)` when it is one and the bytes are not all in one of the three segments (R68). -/
def FaultsAt (i : Instr) (a n : Nat) (s : State) : Prop :=
  (a % n ≠ 0 → TrapsWith i (.misaligned a) s) ∧ (a % n = 0 → ¬DataAt s a n → TrapsWith i (.outOfBounds a) s)

/-- The syscall number (R331). -/
def syscallNumber (s : State) : Nat := if s.cfg.N = 16 then s.readReg 5 else s.readReg 17

/-- What the provider `p` of the table does in `s`, with the arguments of R331. -/
def outcomeOf (p : Provider) (s : State) : ProviderOutcome :=
  runProc s
    (providerProc s.cfg.W
      [s.readReg 10, s.readReg 11, s.readReg 12, s.readReg 13, s.readReg 14, s.readReg 15] p)
    s.mem []

/-- Two states agree on everything a program's course can depend on: all but the cycle count, the limit, the status and
the four output sequences (R33). -/
structure Agree (s t : State) : Prop where
  cfg : t.cfg = s.cfg
  codeSize : t.codeSize = s.codeSize
  dataSize : t.dataSize = s.dataSize
  inputs : t.inputs = s.inputs
  hints : t.hints = s.hints
  regs : t.regs = s.regs
  pc : t.pc = s.pc
  mem : t.mem = s.mem
  inputCursor : t.inputCursor = s.inputCursor
  hintCursor : t.hintCursor = s.hintCursor

/-- An instruction's destination registers: its `rd` field, or a0 and a1 for ECALL (R24). -/
def destinations : Instr → List Nat
  | .add rd _ _ | .sub rd _ _ | .sll rd _ _ | .slt rd _ _ | .sltu rd _ _ | .xor rd _ _ | .srl rd _ _
  | .sra rd _ _ | .or rd _ _ | .and rd _ _ | .mul rd _ _ | .div rd _ _ | .divu rd _ _ | .rem rd _ _
  | .remu rd _ _ | .addi rd _ _ | .slti rd _ _ | .sltiu rd _ _ | .xori rd _ _ | .ori rd _ _ | .andi rd _ _
  | .slli rd _ _ | .srli rd _ _ | .srai rd _ _ | .lui rd _ | .auipc rd _ | .lb rd _ _ | .lh rd _ _
  | .lw rd _ _ | .lbu rd _ _ | .lhu rd _ _ | .jal rd _ | .jalr rd _ _ | .fadd rd _ _ | .fsub rd _ _
  | .fmul rd _ _ | .fneg rd _ | .finv rd _ | .read rd | .hint rd => [rd]
  | .ecall => [10, 11]
  | .sb _ _ _ | .sh _ _ _ | .sw _ _ _ | .beq _ _ _ | .bne _ _ _ | .blt _ _ _ | .bge _ _ _ | .bltu _ _ _
  | .bgeu _ _ _ | .ebreak | .halt | .debug _ | .write _ | .commit _ | .assertEq _ _ | .assertNe _ _
  | .assertZero _ | .rangeCheck _ _ => []

end Sys2Proof.Machine
end

