-- ==== Sys2Proof/Certificates/Slice0/Obligations.lean ====
section
/-! DEFINITION. The statements for the provers. `Ready i s` says that the invariant holds, the machine is Running and
`i` is well-formed; `CompletesWith`, `LoadsTo` and their kin carry the completion and the whole frame. -/

open Sys2Proof Sys2Proof.Machine

/-! ### Encoding and decoding -/

/-- R114: both round-trip laws, for every well-formed instruction with every operand value and for every word. -/
def Obligations.RoundTrip : Prop :=
  ∀ n : Nat, n = 16 ∨ n = 32 →
    (∀ i : Instr, i.wellFormed n = true → decode n (encode i) = .ok i) ∧
      (∀ (w : Word) (i : Instr), decode n w = .ok i → i.wellFormed n = true ∧ encode i = w)

/-- R111: no word is an instruction of two rows. -/
def Obligations.RowsDisjoint : Prop :=
  ∀ (w : Word) (a b : Row), a ∈ rows → b ∈ rows → w &&& a.mask = a.pat → w &&& b.mask = b.pat →
    a.mnemonic = b.mnemonic

/-- R110: a word whose major opcode is not in the table fails to decode. -/
def Obligations.UnassignedOpcodes : Prop :=
  ∀ (n : Nat) (w : Word),
    w.toNat % 128 ∉ [0x03, 0x0B, 0x13, 0x17, 0x23, 0x2B, 0x33, 0x37, 0x5B, 0x63, 0x67, 0x6F, 0x73] →
      decode n w = .error .noRow

/-- R116: the unassigned minor opcodes and the nonzero unused fields it lists fail to decode, field by field. -/
def Obligations.IllegalEncodings : Prop :=
  ∀ (n : Nat) (w : Word) (op rd f3 rs1 rs2 f7 : Nat), op = w.toNat % 128 → rd = w.toNat / 2 ^ 7 % 32 →
    f3 = w.toNat / 2 ^ 12 % 8 → rs1 = w.toNat / 2 ^ 15 % 32 → rs2 = w.toNat / 2 ^ 20 % 32 → f7 = w.toNat / 2 ^ 25 →
    (w.toNat = 0 ∨ w.toNat = 0xFFFFFFFF ∨
      (op = 0x03 ∧ f3 ∈ [3, 6, 7]) ∨ (op = 0x23 ∧ 3 ≤ f3) ∨ (op = 0x63 ∧ f3 ∈ [2, 3]) ∨ (op = 0x67 ∧ f3 ≠ 0) ∨
      (op = 0x73 ∧ (f3 ≠ 0 ∨ rd ≠ 0 ∨ 4 ≤ w.toNat / 2 ^ 20 ∨ (rs1 ≠ 0 ∧ w.toNat / 2 ^ 20 < 3))) ∨
      (op = 0x33 ∧ (f7 ∉ [0x00, 0x01, 0x20] ∨ (f7 = 0x01 ∧ f3 ∈ [1, 2, 3]) ∨ (f7 = 0x20 ∧ f3 ∉ [0, 5]))) ∨
      (op = 0x13 ∧ ((f3 = 1 ∧ f7 ≠ 0) ∨ (f3 = 5 ∧ f7 ∉ [0x00, 0x20]))) ∨
      (op = 0x0B ∧ (f7 ≠ 0 ∨ 5 ≤ f3 ∨ (3 ≤ f3 ∧ rs2 ≠ 0))) ∨
      (op = 0x2B ∧ (f7 ≠ 0 ∨ 4 ≤ f3 ∨ rs2 ≠ 0 ∨ (f3 < 2 ∧ rs1 ≠ 0) ∨ (2 ≤ f3 ∧ rd ≠ 0))) ∨
      (op = 0x5B ∧ (f7 ≠ 0 ∨ 4 ≤ f3 ∨ rd ≠ 0 ∨ (f3 = 2 ∧ rs2 ≠ 0)))) →
    decode n w = .error .noRow

/-- R112: with 32 registers no register field is out of range; with 16 a word decodes to the same instruction exactly
when every register operand (no `shamt`, no `bits`) is below 16, and is an error otherwise. -/
def Obligations.RegisterIndexCheck : Prop :=
  ∀ w : Word,
    decode 32 w ≠ .error .registerIndex ∧
      ∀ i : Instr, decode 32 w = .ok i →
        ((∀ r ∈ i.registers, r < 16) → decode 16 w = .ok i) ∧
          ((∃ r ∈ i.registers, 16 ≤ r) → decode 16 w = .error .registerIndex)

/-- R108: the value in `[0, 2^W)` of each signed immediate, from the word's bits (J for `W ≥ 21`, log 6). -/
def Obligations.ImmediateValues : Prop :=
  ∀ (W : Nat) (w : Word), 16 ≤ W →
    (∀ f, f = w.toNat / 2 ^ 20 → immValue W (immI w) = if f < 2 ^ 11 then f else f + 2 ^ W - 2 ^ 12) ∧
    (∀ f, f = w.toNat / 2 ^ 25 * 2 ^ 5 + w.toNat / 2 ^ 7 % 2 ^ 5 →
      immValue W (immS w) = if f < 2 ^ 11 then f else f + 2 ^ W - 2 ^ 12) ∧
    (∀ f, f = w.toNat / 2 ^ 31 * 2 ^ 12 + w.toNat / 2 ^ 7 % 2 * 2 ^ 11 + w.toNat / 2 ^ 25 % 2 ^ 6 * 2 ^ 5 +
        w.toNat / 2 ^ 8 % 2 ^ 4 * 2 →
      immValue W (immB w) = if f < 2 ^ 12 then f else f + 2 ^ W - 2 ^ 13) ∧
    (∀ f, f = w.toNat / 2 ^ 31 * 2 ^ 20 + w.toNat / 2 ^ 12 % 2 ^ 8 * 2 ^ 12 + w.toNat / 2 ^ 20 % 2 * 2 ^ 11 +
        w.toNat / 2 ^ 21 % 2 ^ 10 * 2 → 21 ≤ W →
      immValue W (immJ w) = if f < 2 ^ 20 then f else f + 2 ^ W - 2 ^ 21)

/-- Words written out in the spec's examples decode to the instructions they stand for (a sanity statement). -/
def Obligations.SpecWordsDecode : Prop :=
  decode 32 0x123450B7 = .ok (.lui 1 0x12345) ∧ decode 32 0x00050C63 = .ok (.beq 10 0 24) ∧
    decode 32 0x008000EF = .ok (.jal 1 8) ∧ decode 32 0xFEDFF06F = .ok (.jal 0 (-20)) ∧
    decode 32 0x001080E7 = .ok (.jalr 1 1 1) ∧ decode 32 0x0000052B = .ok (.read 10) ∧
    decode 32 0x000015AB = .ok (.hint 11) ∧ decode 32 0x0002A02B = .ok (.write 5) ∧
    decode 32 0x0002B02B = .ok (.commit 5) ∧ decode 32 0x0020805B = .ok (.assertEq 1 2) ∧
    decode 32 0x0080B05B = .ok (.rangeCheck 1 8) ∧ decode 32 0x00350073 = .ok (.debug 10)

/-! ### Reset -/

/-- R39, R380, with the segment sizes of R6 and R61: the state after reset, for every valid configuration and image.
That the pc is an entry point of `2^W` or more as it stands is the model's choice (log 7), and so is that an empty
segment overlaps nothing (log 16) and may lie at `2^W` (log 18). -/
def Obligations.ResetValues : Prop :=
  ∀ (c : Config) (img : Image) (inputs hints : List Nat) (limit : Nat), ConfigValid c →
    SegmentsFit c img.code.length (img.data.length + img.bssSize) →
    ∃ s, boot c img inputs hints limit = .next s ∧ s.cfg = c ∧ s.codeSize = img.code.length ∧
      s.dataSize = img.data.length + img.bssSize ∧ (∀ r, s.readReg r = 0) ∧ s.pc = img.entryPoint ∧
      (∀ k, (h : k < img.code.length) → s.readByte (c.codeBase + k) = img.code[k]) ∧
      (∀ k, (h : k < img.data.length) → s.readByte (c.dataBase + k) = img.data[k]) ∧
      (∀ a, (a < c.codeBase ∨ c.codeBase + img.code.length ≤ a) →
        (a < c.dataBase ∨ c.dataBase + img.data.length ≤ a) → s.readByte a = 0) ∧
      s.status = (if limit = 0 then .trapped .cycleLimitExceeded else .running) ∧ s.inputCursor = 0 ∧
      s.hintCursor = 0 ∧ s.inputs = inputs ∧ s.hints = hints ∧ s.limit = limit ∧ s.outputs = [] ∧
      s.commitments = [] ∧ s.cycleCount = 0 ∧ s.trace = [] ∧ s.accessLog = []

/-- R6 with D16, D29 and D52: a configuration or an image that breaks a constraint starts no run. `ConfigValid` is the
conjunction of the constraints on `P`, `W` and `N`, on the bases and sizes, on the configured segments, and on the
syscall table. That a table with a repeated number or a number of `P` or more is refused is the model's reading of D29
(log 12), and so is what `SegmentsFit` says of an empty segment (log 16, log 18). -/
def Obligations.InvalidRunsRefused : Prop :=
  ∀ (c : Config) (img : Image) (inputs hints : List Nat) (limit : Nat),
    (¬ConfigValid c → boot c img inputs hints limit = .refused .invalidConfiguration) ∧
      (ConfigValid c → ¬SegmentsFit c img.code.length (img.data.length + img.bssSize) →
        boot c img inputs hints limit = .refused .imageDoesNotFit)

/-- The model's invariant holds of the model's reset state (log 2). -/
def Obligations.ResetInvariant : Prop := State.reset.Inv

/-- The model's invariant holds after every reset. -/
def Obligations.BootInvariant : Prop :=
  ∀ (c : Config) (img : Image) (inputs hints : List Nat) (limit : Nat) (s : State),
    boot c img inputs hints limit = .next s → s.Inv

/-! ### The cycle and the run -/

/-- Every step keeps the invariant: memory in canonical form, registers and buffers below `P`, the pc aligned after
the first cycle, the cursors inside their sequences, the cycle count at most `L`. -/
def Obligations.StepKeepsInvariant : Prop :=
  ∀ s t : State, s.Inv → step s = .next t → t.Inv

/-- R140, R143, R145: when the four code bytes at an aligned pc decode to `i`, the step is `i` executed in the same
state. -/
def Obligations.StepRunsDecoded : Prop :=
  ∀ (s : State) (i : Instr), s.status = .running → s.pc % 4 = 0 → CodeAt s s.pc 4 →
    decode s.cfg.N (BitVec.ofNat 32 (valueAt s s.pc 4)) = .ok i → step s = exec i s

/-- R141, R142, R144: the three traps of fetch and decode, in this order, with no decoded instruction in the row. -/
def Obligations.FetchTraps : Prop :=
  ∀ s : State, s.status = .running →
    (s.pc % 4 ≠ 0 → ∃ t, step s = .next t ∧ TrapEntered none (.misaligned s.pc) s t) ∧
    (s.pc % 4 = 0 → ¬CodeAt s s.pc 4 → ∃ t, step s = .next t ∧ TrapEntered none (.invalidAddress s.pc) s t) ∧
    (s.pc % 4 = 0 → CodeAt s s.pc 4 → (∀ i, decode s.cfg.N (BitVec.ofNat 32 (valueAt s s.pc 4)) ≠ .ok i) →
      ∃ t, step s = .next t ∧
        TrapEntered none (.invalidInstruction (BitVec.ofNat 32 (valueAt s s.pc 4))) s t)

/-- "No cycle is taken from `Halted` or `Trapped`" (R140): the model's step stops there with its one fault (log 5). -/
def Obligations.NoStepAfterEnd : Prop :=
  ∀ s : State, s.Ended → step s = .fault (.runEnded s.status)

/-- R149, R154, R28: every cycle from Running gives a next state, counts one, and appends exactly one row with the
cycle, pc and registers of its start and the registers of its end. -/
def Obligations.OneRowPerCycle : Prop :=
  ∀ s : State, s.status = .running →
    ∃ t i acc r, step s = .next t ∧ t.cycleCount = s.cycleCount + 1 ∧ RowAdded s t i acc r ∧
      (i = none → r ≠ none) ∧ ∀ q, r = some q → t.regs = s.regs ∧ acc = MemAccess.none ∧ t.status = .trapped q

/-- R148, R352: a state left Running is below the limit; a state stopped by the limit has counted exactly `L` cycles,
and its last row has no trap marker. -/
def Obligations.CycleLimit : Prop :=
  ∀ s t : State, s.Inv → step s = .next t →
    (t.status = .running → t.cycleCount < s.limit) ∧
      (t.status = .trapped .cycleLimitExceeded →
        t.cycleCount = s.limit ∧ ∃ row, t.trace = s.trace ++ [row] ∧ row.trap = none)

/-- R151: every run ends after at most `L` cycles, with as many rows as cycles. -/
def Obligations.RunsEnd : Prop :=
  ∀ (c : Config) (img : Image) (inputs hints : List Nat) (limit : Nat) (s : State),
    boot c img inputs hints limit = .next s →
      ∃ t, run c img inputs hints limit = .next t ∧ t.Ended ∧ t.cycleCount ≤ limit ∧ t.trace.length = t.cycleCount

/-- R152, R38: a result exists exactly when the run has ended, and is read from the final state. -/
def Obligations.ResultOfEndedRun : Prop :=
  ∀ s : State, (s.result = none ↔ ¬s.Ended) ∧
    ∀ e, s.result = some e → e.outputs = s.outputs ∧ e.commitments = s.commitments ∧ e.status = s.status ∧
      e.trace = s.trace ∧ e.accessLog = s.accessLog ∧ e.final = s

/-- R146, R354: a step that ends Trapped for a reason other than the cycle limit changed nothing but the status, the
trace and the cycle count. -/
def Obligations.TrapsAreExact : Prop :=
  ∀ (s t : State) (r : TrapReason), step s = .next t → t.status = .trapped r → r ≠ .cycleLimitExceeded →
    ∃ i, TrapEntered i r s t

/-- R382, R29: no step changes the configuration, the segments, the inputs, the hints or the limit. -/
def Obligations.RunConstants : Prop := ∀ s t : State, step s = .next t → SameRun s t

/-- R32, R70, R30: the trace, the access log and the two output buffers only grow at the end, and every new log entry
carries the cycle it was made in. -/
def Obligations.AppendOnly : Prop :=
  ∀ s t : State, step s = .next t →
    (∃ row, t.trace = s.trace ++ [row]) ∧ (∃ new, t.outputs = s.outputs ++ new ∧ new.length ≤ 1) ∧
      (∃ new, t.commitments = s.commitments ++ new ∧ new.length ≤ 1) ∧
      ∃ new, t.accessLog = s.accessLog ++ new ∧ ∀ e ∈ new, e.cycle = s.cycleCount

/-- R62, R76: through any number of cycles the bytes of the code segment stay what they are. -/
def Obligations.CodeNeverWritten : Prop :=
  ∀ (s : State) (k a : Nat), s.Inv → CodeAt s a 1 → (runCycles k s).readByte a = s.readByte a

/-- R69, R80: a byte that a step changes lies in the data, heap or stack segment. -/
def Obligations.OnlyDataWritten : Prop :=
  ∀ (s t : State) (a : Nat), s.Inv → step s = .next t → t.readByte a ≠ s.readByte a → DataAt s a 1

/-- R24: an instruction changes no register but its destination (a0 and a1 for ECALL). -/
def Obligations.OnlyDestinationsWritten : Prop :=
  ∀ (i : Instr) (s t : State) (r : Nat), s.Inv → exec i s = .next t → r ∉ destinations i →
    t.readReg r = s.readReg r

/-- R29: only READ moves the input cursor and only HINT the hint cursor, never back and by at most one. -/
def Obligations.OnlyReadHintMoveCursors : Prop :=
  ∀ (i : Instr) (s t : State), exec i s = .next t →
    ((∀ rd, i ≠ .read rd) → t.inputCursor = s.inputCursor) ∧ ((∀ rd, i ≠ .hint rd) → t.hintCursor = s.hintCursor) ∧
      s.inputCursor ≤ t.inputCursor ∧ t.inputCursor ≤ s.inputCursor + 1 ∧ s.hintCursor ≤ t.hintCursor ∧
      t.hintCursor ≤ s.hintCursor + 1

/-- R30: only WRITE changes the output buffer and only COMMIT the commitment list. -/
def Obligations.OnlyWriteCommitAppend : Prop :=
  ∀ (i : Instr) (s t : State), exec i s = .next t →
    ((∀ rs1, i ≠ .write rs1) → t.outputs = s.outputs) ∧
      ((∀ rs1, i ≠ .commit rs1) → t.commitments = s.commitments)

/-- R33, R28, R70: what a cycle does to registers, pc, memory, cursors and outputs depends on nothing a program cannot
read: not on the cycle count, the limit, the trace, the access log, the output buffer or the commitments. The status
too is the same, unless the limit stopped one of the two. -/
def Obligations.OutputsNeverRead : Prop :=
  ∀ s₁ s₂ t₁ : State, Agree s₁ s₂ → s₁.status = .running → s₂.status = .running → step s₁ = .next t₁ →
    ∃ t₂ o c, step s₂ = .next t₂ ∧ Agree t₁ t₂ ∧ t₁.outputs = s₁.outputs ++ o ∧ t₂.outputs = s₂.outputs ++ o ∧
      t₁.commitments = s₁.commitments ++ c ∧ t₂.commitments = s₂.commitments ++ c ∧
      (t₁.status = t₂.status ∨ t₁.status = .trapped .cycleLimitExceeded ∨ t₂.status = .trapped .cycleLimitExceeded)

/-- R350: the numeric codes. -/
def Obligations.TrapCodes : Prop :=
  ∀ (a : Nat) (w : Word) (q : Stream),
    [TrapReason.misaligned a, .outOfBounds a, .invalidAddress a, .invalidInstruction w, .divByZero, .assertionFailed,
      .rangeCheckFailed, .unknownSyscall a, .inputExhausted q, .breakpoint, .cycleLimitExceeded,
      .syscallFailed].map TrapReason.code = [1, 2, 3, 4, 5, 6, 7, 8, 9, 10, 11, 12]

/-! ### Registers and memory -/

/-- R21, R22: a write to a register below `N` stores the value modulo `P`, is discarded for x0, and changes no other
register; x0 reads as zero and every register reads below `P`. -/
def Obligations.RegisterWrite : Prop :=
  ∀ (s : State) (rd v r : Nat), s.Inv → rd < s.cfg.N →
    (s.writeReg rd v).readReg r = (if r = rd ∧ r ≠ 0 then v % s.cfg.P else s.readReg r) ∧ s.readReg 0 = 0 ∧
      s.readReg r < s.cfg.P

/-- R66, R67, R72: a write of `n` bytes sets them little-endian and changes no other byte, so a read of the same `n`
bytes gives the value back modulo `256^n`; memory keeps its canonical form. -/
def Obligations.ReadAfterWrite : Prop :=
  ∀ (m : List Host.Cell) (a n v : Nat), Memory.wf m = true →
    Memory.wf (memWrite m a n v) = true ∧ memRead (memWrite m a n v) a n = v % 256 ^ n ∧
      (∀ k, k < n → (Memory.read (memWrite m a n v) (a + k)).toNat = v / 256 ^ k % 256) ∧
      (∀ b, b < a ∨ a + n ≤ b → Memory.read (memWrite m a n v) b = Memory.read m b) ∧
      memRead m a n = ∑ k ∈ Finset.range n, 256 ^ k * (Memory.read m (a + k)).toNat ∧ memRead m a n < 256 ^ n

/-- R261: a field element survives SW then LW at the same address; SB then LBU and SH then LHU give its low bytes. -/
def Obligations.StoreThenLoad : Prop :=
  ∀ (s : State) (rs1 rs2 rd : Nat), s.Inv → rd ≠ 0 → rd < s.cfg.N →
    (ea s rs1 0 % 4 = 0 → DataAt s (ea s rs1 0) 4 → ∃ t t', exec (.sw rs1 rs2 0) s = .next t ∧
      exec (.lw rd rs1 0) t = .next t' ∧ t'.readReg rd = s.readReg rs2) ∧
    (ea s rs1 0 % 2 = 0 → DataAt s (ea s rs1 0) 2 → ∃ t t', exec (.sh rs1 rs2 0) s = .next t ∧
      exec (.lhu rd rs1 0) t = .next t' ∧ t'.readReg rd = s.readReg rs2 % 2 ^ 16) ∧
    (DataAt s (ea s rs1 0) 1 → ∃ t t', exec (.sb rs1 rs2 0) s = .next t ∧
      exec (.lbu rd rs1 0) t = .next t' ∧ t'.readReg rd = s.readReg rs2 % 256)

/-! ### Integer instructions -/

/-- R171, R172, R211: ADD, SUB and MUL. -/
def Obligations.AddSubMul : Prop :=
  ∀ (s : State) (rd rs1 rs2 : Nat),
    (Ready (.add rd rs1 rs2) s →
      Decodes s (rWord 0x33 0 0x00 rd rs1 rs2) (.add rd rs1 rs2) ∧
        CompletesWith (.add rd rs1 rs2) rd ((u s rs1 + u s rs2) % 2 ^ s.cfg.W) s) ∧
    (Ready (.sub rd rs1 rs2) s →
      Decodes s (rWord 0x33 0 0x20 rd rs1 rs2) (.sub rd rs1 rs2) ∧
        CompletesWith (.sub rd rs1 rs2) rd ((((u s rs1 : Int) - u s rs2) % 2 ^ s.cfg.W).toNat) s) ∧
    (Ready (.mul rd rs1 rs2) s →
      Decodes s (rWord 0x33 0 0x01 rd rs1 rs2) (.mul rd rs1 rs2) ∧
        CompletesWith (.mul rd rs1 rs2) rd (u s rs1 * u s rs2 % 2 ^ s.cfg.W) s)

/-- R176, R179, R180: XOR, OR and AND. -/
def Obligations.Logic : Prop :=
  ∀ (s : State) (rd rs1 rs2 : Nat),
    (Ready (.xor rd rs1 rs2) s →
      Decodes s (rWord 0x33 4 0x00 rd rs1 rs2) (.xor rd rs1 rs2) ∧
        CompletesWith (.xor rd rs1 rs2) rd (u s rs1 ^^^ u s rs2) s) ∧
    (Ready (.or rd rs1 rs2) s →
      Decodes s (rWord 0x33 6 0x00 rd rs1 rs2) (.or rd rs1 rs2) ∧
        CompletesWith (.or rd rs1 rs2) rd (u s rs1 ||| u s rs2) s) ∧
    (Ready (.and rd rs1 rs2) s →
      Decodes s (rWord 0x33 7 0x00 rd rs1 rs2) (.and rd rs1 rs2) ∧
        CompletesWith (.and rd rs1 rs2) rd (u s rs1 &&& u s rs2) s)

/-- R184, R185, R186: XORI, ORI and ANDI, on the immediate sign-extended to `W` bits. -/
def Obligations.LogicImmediate : Prop :=
  ∀ (s : State) (rd rs1 : Nat) (imm : Int),
    (Ready (.xori rd rs1 imm) s →
      Decodes s (iWord 0x13 4 rd rs1 imm) (.xori rd rs1 imm) ∧
        CompletesWith (.xori rd rs1 imm) rd (u s rs1 ^^^ (imm % 2 ^ s.cfg.W).toNat) s) ∧
    (Ready (.ori rd rs1 imm) s →
      Decodes s (iWord 0x13 6 rd rs1 imm) (.ori rd rs1 imm) ∧
        CompletesWith (.ori rd rs1 imm) rd (u s rs1 ||| (imm % 2 ^ s.cfg.W).toNat) s) ∧
    (Ready (.andi rd rs1 imm) s →
      Decodes s (iWord 0x13 7 rd rs1 imm) (.andi rd rs1 imm) ∧
        CompletesWith (.andi rd rs1 imm) rd (u s rs1 &&& (imm % 2 ^ s.cfg.W).toNat) s)

/-- R173, R177, R178 with R193: SLL, SRL and SRA, the amount modulo `W`. -/
def Obligations.Shifts : Prop :=
  ∀ (s : State) (rd rs1 rs2 : Nat),
    (Ready (.sll rd rs1 rs2) s →
      Decodes s (rWord 0x33 1 0x00 rd rs1 rs2) (.sll rd rs1 rs2) ∧
        CompletesWith (.sll rd rs1 rs2) rd (u s rs1 * 2 ^ (u s rs2 % s.cfg.W) % 2 ^ s.cfg.W) s) ∧
    (Ready (.srl rd rs1 rs2) s →
      Decodes s (rWord 0x33 5 0x00 rd rs1 rs2) (.srl rd rs1 rs2) ∧
        CompletesWith (.srl rd rs1 rs2) rd (u s rs1 / 2 ^ (u s rs2 % s.cfg.W)) s) ∧
    (Ready (.sra rd rs1 rs2) s →
      Decodes s (rWord 0x33 5 0x20 rd rs1 rs2) (.sra rd rs1 rs2) ∧
        CompletesWith (.sra rd rs1 rs2) rd ((sg s rs1 / 2 ^ (u s rs2 % s.cfg.W) % 2 ^ s.cfg.W).toNat) s)

/-- R187, R188, R189 with R193: SLLI, SRLI and SRAI, the amount modulo `W`. -/
def Obligations.ShiftsImmediate : Prop :=
  ∀ (s : State) (rd rs1 shamt : Nat),
    (Ready (.slli rd rs1 shamt) s →
      Decodes s (rWord 0x13 1 0x00 rd rs1 shamt) (.slli rd rs1 shamt) ∧
        CompletesWith (.slli rd rs1 shamt) rd (u s rs1 * 2 ^ (shamt % s.cfg.W) % 2 ^ s.cfg.W) s) ∧
    (Ready (.srli rd rs1 shamt) s →
      Decodes s (rWord 0x13 5 0x00 rd rs1 shamt) (.srli rd rs1 shamt) ∧
        CompletesWith (.srli rd rs1 shamt) rd (u s rs1 / 2 ^ (shamt % s.cfg.W)) s) ∧
    (Ready (.srai rd rs1 shamt) s →
      Decodes s (rWord 0x13 5 0x20 rd rs1 shamt) (.srai rd rs1 shamt) ∧
        CompletesWith (.srai rd rs1 shamt) rd ((sg s rs1 / 2 ^ (shamt % s.cfg.W) % 2 ^ s.cfg.W).toNat) s)

/-- R174, R175, R182, R183: SLT, SLTU, SLTI and SLTIU. SLTIU compares with the sign-extended immediate, unsigned. -/
def Obligations.Comparisons : Prop :=
  ∀ (s : State) (rd rs1 rs2 : Nat) (imm : Int),
    (Ready (.slt rd rs1 rs2) s →
      Decodes s (rWord 0x33 2 0x00 rd rs1 rs2) (.slt rd rs1 rs2) ∧
        CompletesWith (.slt rd rs1 rs2) rd (if sg s rs1 < sg s rs2 then 1 else 0) s) ∧
    (Ready (.sltu rd rs1 rs2) s →
      Decodes s (rWord 0x33 3 0x00 rd rs1 rs2) (.sltu rd rs1 rs2) ∧
        CompletesWith (.sltu rd rs1 rs2) rd (if u s rs1 < u s rs2 then 1 else 0) s) ∧
    (Ready (.slti rd rs1 imm) s →
      Decodes s (iWord 0x13 2 rd rs1 imm) (.slti rd rs1 imm) ∧
        CompletesWith (.slti rd rs1 imm) rd (if sg s rs1 < imm then 1 else 0) s) ∧
    (Ready (.sltiu rd rs1 imm) s →
      Decodes s (iWord 0x13 3 rd rs1 imm) (.sltiu rd rs1 imm) ∧
        CompletesWith (.sltiu rd rs1 imm) rd (if u s rs1 < (imm % 2 ^ s.cfg.W).toNat then 1 else 0) s)

/-- R181, R190, R191: ADDI, LUI and AUIPC. -/
def Obligations.ImmediateAdds : Prop :=
  ∀ (s : State) (rd rs1 imm20 : Nat) (imm : Int),
    (Ready (.addi rd rs1 imm) s →
      Decodes s (iWord 0x13 0 rd rs1 imm) (.addi rd rs1 imm) ∧
        CompletesWith (.addi rd rs1 imm) rd ((((u s rs1 : Int) + imm) % 2 ^ s.cfg.W).toNat) s) ∧
    (Ready (.lui rd imm20) s →
      Decodes s (uWord 0x37 rd imm20) (.lui rd imm20) ∧
        CompletesWith (.lui rd imm20) rd (imm20 * 2 ^ 12 % 2 ^ s.cfg.W) s) ∧
    (Ready (.auipc rd imm20) s →
      Decodes s (uWord 0x17 rd imm20) (.auipc rd imm20) ∧
        CompletesWith (.auipc rd imm20) rd ((s.pc + imm20 * 2 ^ 12) % 2 ^ s.cfg.W) s)

/-- R192: `ADDI rd, rs, 0` writes the `W`-bit view of a field element, `FADD rd, rs, x0` the whole of it. -/
def Obligations.CopyOfAFieldElement : Prop :=
  ∀ (s : State) (rd rs : Nat), Ready (.addi rd rs 0) s → Ready (.fadd rd rs 0) s →
    CompletesWith (.addi rd rs 0) rd (s.readReg rs % 2 ^ s.cfg.W) s ∧
      CompletesWith (.fadd rd rs 0) rd (s.readReg rs) s

/-- R212, R213, R214, R215 with R217: DIV, DIVU, REM and REMU, and their trap for a divisor whose `W`-bit view is
zero. -/
def Obligations.Divisions : Prop :=
  ∀ (s : State) (rd rs1 rs2 : Nat),
    (Ready (.div rd rs1 rs2) s →
      Decodes s (rWord 0x33 4 0x01 rd rs1 rs2) (.div rd rs1 rs2) ∧
        (u s rs2 ≠ 0 → CompletesWith (.div rd rs1 rs2) rd (((sg s rs1).tdiv (sg s rs2) % 2 ^ s.cfg.W).toNat) s) ∧
        (u s rs2 = 0 → TrapsWith (.div rd rs1 rs2) .divByZero s)) ∧
    (Ready (.divu rd rs1 rs2) s →
      Decodes s (rWord 0x33 5 0x01 rd rs1 rs2) (.divu rd rs1 rs2) ∧
        (u s rs2 ≠ 0 → CompletesWith (.divu rd rs1 rs2) rd (u s rs1 / u s rs2) s) ∧
        (u s rs2 = 0 → TrapsWith (.divu rd rs1 rs2) .divByZero s)) ∧
    (Ready (.rem rd rs1 rs2) s →
      Decodes s (rWord 0x33 6 0x01 rd rs1 rs2) (.rem rd rs1 rs2) ∧
        (u s rs2 ≠ 0 → CompletesWith (.rem rd rs1 rs2) rd (((sg s rs1).tmod (sg s rs2) % 2 ^ s.cfg.W).toNat) s) ∧
        (u s rs2 = 0 → TrapsWith (.rem rd rs1 rs2) .divByZero s)) ∧
    (Ready (.remu rd rs1 rs2) s →
      Decodes s (rWord 0x33 7 0x01 rd rs1 rs2) (.remu rd rs1 rs2) ∧
        (u s rs2 ≠ 0 → CompletesWith (.remu rd rs1 rs2) rd (u s rs1 % u s rs2) s) ∧
        (u s rs2 = 0 → TrapsWith (.remu rd rs1 rs2) .divByZero s))

/-- R210, R216: what DIV and REM write fits together as truncating division: the remainder is smaller than the divisor
and has the dividend's sign, and the quotient is exact but for the one overflow, `-2^(W-1)` by `-1`, which gives
`2^(W-1)` and 0. -/
def Obligations.DivisionIdentity : Prop :=
  ∀ (s t t' : State) (rd rs1 rs2 : Nat), Ready (.div rd rs1 rs2) s → rd ≠ 0 → u s rs2 ≠ 0 →
    exec (.div rd rs1 rs2) s = .next t → exec (.rem rd rs1 rs2) s = .next t' →
    (sg t' rd).natAbs < (sg s rs2).natAbs ∧ (sg t' rd ≠ 0 → (0 < sg t' rd ↔ 0 < sg s rs1)) ∧
      ((sg s rs1 ≠ -2 ^ (s.cfg.W - 1) ∨ sg s rs2 ≠ -1) → sg s rs1 = sg s rs2 * sg t rd + sg t' rd) ∧
      (sg s rs1 = -2 ^ (s.cfg.W - 1) → sg s rs2 = -1 → t.readReg rd = 2 ^ (s.cfg.W - 1) ∧ t'.readReg rd = 0)

/-! ### Field instructions -/

/-- R231, R232, R233, R234: FADD, FSUB, FMUL and FNEG, on full register values. -/
def Obligations.FieldArithmetic : Prop :=
  ∀ (s : State) (rd rs1 rs2 : Nat),
    (Ready (.fadd rd rs1 rs2) s →
      Decodes s (rWord 0x0B 0 0 rd rs1 rs2) (.fadd rd rs1 rs2) ∧
        CompletesWith (.fadd rd rs1 rs2) rd ((s.readReg rs1 + s.readReg rs2) % s.cfg.P) s) ∧
    (Ready (.fsub rd rs1 rs2) s →
      Decodes s (rWord 0x0B 1 0 rd rs1 rs2) (.fsub rd rs1 rs2) ∧
        CompletesWith (.fsub rd rs1 rs2) rd ((((s.readReg rs1 : Int) - s.readReg rs2) % s.cfg.P).toNat) s) ∧
    (Ready (.fmul rd rs1 rs2) s →
      Decodes s (rWord 0x0B 2 0 rd rs1 rs2) (.fmul rd rs1 rs2) ∧
        CompletesWith (.fmul rd rs1 rs2) rd (s.readReg rs1 * s.readReg rs2 % s.cfg.P) s) ∧
    (Ready (.fneg rd rs1) s →
      Decodes s (rWord 0x0B 3 0 rd rs1 0) (.fneg rd rs1) ∧
        CompletesWith (.fneg rd rs1) rd ((s.cfg.P - s.readReg rs1) % s.cfg.P) s)

/-- R235: FINV writes the one `y` in `[1, P)` with `x[rs1] * y mod P = 1`, and traps on zero. -/
def Obligations.FieldInverse : Prop :=
  ∀ (s : State) (rd rs1 : Nat), Ready (.finv rd rs1) s →
    Decodes s (rWord 0x0B 4 0 rd rs1 0) (.finv rd rs1) ∧
      (s.readReg rs1 ≠ 0 → ∃ y, 1 ≤ y ∧ y < s.cfg.P ∧ s.readReg rs1 * y % s.cfg.P = 1 ∧
        (∀ z, 1 ≤ z → z < s.cfg.P → s.readReg rs1 * z % s.cfg.P = 1 → z = y) ∧
        CompletesWith (.finv rd rs1) rd y s) ∧
      (s.readReg rs1 = 0 → TrapsWith (.finv rd rs1) .divByZero s)

/-! ### Loads and stores -/

/-- R252 to R256 with R250, R251: LB, LH, LW, LBU and LHU load when the access is aligned and inside one segment of data,
heap and stack, and trap otherwise, `Misaligned` before `OutOfBounds`. -/
def Obligations.Loads : Prop :=
  ∀ (s : State) (rd rs1 : Nat) (imm : Int),
    (Ready (.lb rd rs1 imm) s →
      Decodes s (iWord 0x03 0 rd rs1 imm) (.lb rd rs1 imm) ∧ FaultsAt (.lb rd rs1 imm) (ea s rs1 imm) 1 s ∧
        (DataAt s (ea s rs1 imm) 1 →
          LoadsTo (.lb rd rs1 imm) (ea s rs1 imm) 1 (valueAt s (ea s rs1 imm) 1) rd
            ((((valueAt s (ea s rs1 imm) 1 : Int).bmod (2 ^ 8)) % 2 ^ s.cfg.W).toNat) s)) ∧
    (Ready (.lh rd rs1 imm) s →
      Decodes s (iWord 0x03 1 rd rs1 imm) (.lh rd rs1 imm) ∧ FaultsAt (.lh rd rs1 imm) (ea s rs1 imm) 2 s ∧
        (ea s rs1 imm % 2 = 0 → DataAt s (ea s rs1 imm) 2 →
          LoadsTo (.lh rd rs1 imm) (ea s rs1 imm) 2 (valueAt s (ea s rs1 imm) 2) rd
            ((((valueAt s (ea s rs1 imm) 2 : Int).bmod (2 ^ 16)) % 2 ^ s.cfg.W).toNat) s)) ∧
    (Ready (.lw rd rs1 imm) s →
      Decodes s (iWord 0x03 2 rd rs1 imm) (.lw rd rs1 imm) ∧ FaultsAt (.lw rd rs1 imm) (ea s rs1 imm) 4 s ∧
        (ea s rs1 imm % 4 = 0 → DataAt s (ea s rs1 imm) 4 →
          LoadsTo (.lw rd rs1 imm) (ea s rs1 imm) 4 (valueAt s (ea s rs1 imm) 4) rd
            (valueAt s (ea s rs1 imm) 4 % s.cfg.P) s)) ∧
    (Ready (.lbu rd rs1 imm) s →
      Decodes s (iWord 0x03 4 rd rs1 imm) (.lbu rd rs1 imm) ∧ FaultsAt (.lbu rd rs1 imm) (ea s rs1 imm) 1 s ∧
        (DataAt s (ea s rs1 imm) 1 →
          LoadsTo (.lbu rd rs1 imm) (ea s rs1 imm) 1 (valueAt s (ea s rs1 imm) 1) rd
            (valueAt s (ea s rs1 imm) 1) s)) ∧
    (Ready (.lhu rd rs1 imm) s →
      Decodes s (iWord 0x03 5 rd rs1 imm) (.lhu rd rs1 imm) ∧ FaultsAt (.lhu rd rs1 imm) (ea s rs1 imm) 2 s ∧
        (ea s rs1 imm % 2 = 0 → DataAt s (ea s rs1 imm) 2 →
          LoadsTo (.lhu rd rs1 imm) (ea s rs1 imm) 2 (valueAt s (ea s rs1 imm) 2) rd
            (valueAt s (ea s rs1 imm) 2) s))

/-- R258, R259, R260 with R250, R257: SB, SH and SW store when the access is aligned and inside one segment of data, heap
and stack, and trap otherwise, `Misaligned` before `OutOfBounds`. -/
def Obligations.Stores : Prop :=
  ∀ (s : State) (rs1 rs2 : Nat) (imm : Int),
    (Ready (.sb rs1 rs2 imm) s →
      Decodes s (sWord 0x23 0 rs1 rs2 imm) (.sb rs1 rs2 imm) ∧ FaultsAt (.sb rs1 rs2 imm) (ea s rs1 imm) 1 s ∧
        (DataAt s (ea s rs1 imm) 1 → StoresTo (.sb rs1 rs2 imm) (ea s rs1 imm) 1 (s.readReg rs2) s)) ∧
    (Ready (.sh rs1 rs2 imm) s →
      Decodes s (sWord 0x23 1 rs1 rs2 imm) (.sh rs1 rs2 imm) ∧ FaultsAt (.sh rs1 rs2 imm) (ea s rs1 imm) 2 s ∧
        (ea s rs1 imm % 2 = 0 → DataAt s (ea s rs1 imm) 2 →
          StoresTo (.sh rs1 rs2 imm) (ea s rs1 imm) 2 (s.readReg rs2) s)) ∧
    (Ready (.sw rs1 rs2 imm) s →
      Decodes s (sWord 0x23 2 rs1 rs2 imm) (.sw rs1 rs2 imm) ∧ FaultsAt (.sw rs1 rs2 imm) (ea s rs1 imm) 4 s ∧
        (ea s rs1 imm % 4 = 0 → DataAt s (ea s rs1 imm) 4 →
          StoresTo (.sw rs1 rs2 imm) (ea s rs1 imm) 4 (s.readReg rs2) s))

/-! ### Control transfer -/

/-- R281, R282 with R280, R290: BEQ and BNE, on full register values. -/
def Obligations.EqualityBranches : Prop :=
  ∀ (s : State) (rs1 rs2 : Nat) (offset : Int),
    (Ready (.beq rs1 rs2 offset) s →
      Decodes s (bWord 0x63 0 rs1 rs2 offset) (.beq rs1 rs2 offset) ∧
        (s.readReg rs1 ≠ s.readReg rs2 → CompletesSilently (.beq rs1 rs2 offset) s) ∧
        (s.readReg rs1 = s.readReg rs2 → target s offset % 4 = 0 →
          GoesTo (.beq rs1 rs2 offset) (target s offset) s) ∧
        (s.readReg rs1 = s.readReg rs2 → target s offset % 4 ≠ 0 →
          TrapsWith (.beq rs1 rs2 offset) (.misaligned (target s offset)) s)) ∧
    (Ready (.bne rs1 rs2 offset) s →
      Decodes s (bWord 0x63 1 rs1 rs2 offset) (.bne rs1 rs2 offset) ∧
        (s.readReg rs1 = s.readReg rs2 → CompletesSilently (.bne rs1 rs2 offset) s) ∧
        (s.readReg rs1 ≠ s.readReg rs2 → target s offset % 4 = 0 →
          GoesTo (.bne rs1 rs2 offset) (target s offset) s) ∧
        (s.readReg rs1 ≠ s.readReg rs2 → target s offset % 4 ≠ 0 →
          TrapsWith (.bne rs1 rs2 offset) (.misaligned (target s offset)) s))

/-- R283, R284 with R280, R290: BLT and BGE, on signed views. -/
def Obligations.SignedBranches : Prop :=
  ∀ (s : State) (rs1 rs2 : Nat) (offset : Int),
    (Ready (.blt rs1 rs2 offset) s →
      Decodes s (bWord 0x63 4 rs1 rs2 offset) (.blt rs1 rs2 offset) ∧
        (¬sg s rs1 < sg s rs2 → CompletesSilently (.blt rs1 rs2 offset) s) ∧
        (sg s rs1 < sg s rs2 → target s offset % 4 = 0 → GoesTo (.blt rs1 rs2 offset) (target s offset) s) ∧
        (sg s rs1 < sg s rs2 → target s offset % 4 ≠ 0 →
          TrapsWith (.blt rs1 rs2 offset) (.misaligned (target s offset)) s)) ∧
    (Ready (.bge rs1 rs2 offset) s →
      Decodes s (bWord 0x63 5 rs1 rs2 offset) (.bge rs1 rs2 offset) ∧
        (sg s rs1 < sg s rs2 → CompletesSilently (.bge rs1 rs2 offset) s) ∧
        (¬sg s rs1 < sg s rs2 → target s offset % 4 = 0 → GoesTo (.bge rs1 rs2 offset) (target s offset) s) ∧
        (¬sg s rs1 < sg s rs2 → target s offset % 4 ≠ 0 →
          TrapsWith (.bge rs1 rs2 offset) (.misaligned (target s offset)) s))

/-- R285, R286 with R280, R290: BLTU and BGEU, on unsigned views. -/
def Obligations.UnsignedBranches : Prop :=
  ∀ (s : State) (rs1 rs2 : Nat) (offset : Int),
    (Ready (.bltu rs1 rs2 offset) s →
      Decodes s (bWord 0x63 6 rs1 rs2 offset) (.bltu rs1 rs2 offset) ∧
        (¬u s rs1 < u s rs2 → CompletesSilently (.bltu rs1 rs2 offset) s) ∧
        (u s rs1 < u s rs2 → target s offset % 4 = 0 → GoesTo (.bltu rs1 rs2 offset) (target s offset) s) ∧
        (u s rs1 < u s rs2 → target s offset % 4 ≠ 0 →
          TrapsWith (.bltu rs1 rs2 offset) (.misaligned (target s offset)) s)) ∧
    (Ready (.bgeu rs1 rs2 offset) s →
      Decodes s (bWord 0x63 7 rs1 rs2 offset) (.bgeu rs1 rs2 offset) ∧
        (u s rs1 < u s rs2 → CompletesSilently (.bgeu rs1 rs2 offset) s) ∧
        (¬u s rs1 < u s rs2 → target s offset % 4 = 0 → GoesTo (.bgeu rs1 rs2 offset) (target s offset) s) ∧
        (¬u s rs1 < u s rs2 → target s offset % 4 ≠ 0 →
          TrapsWith (.bgeu rs1 rs2 offset) (.misaligned (target s offset)) s))

/-- R287, R288 with R280: JAL and JALR link and jump; a target that is no multiple of 4 traps and does not link. The
target of JAL for `W` below 21, where the 21-bit offset is wider than an address, is the model's choice (log 6). -/
def Obligations.Jumps : Prop :=
  ∀ (s : State) (rd rs1 t : Nat) (offset imm : Int),
    (Ready (.jal rd offset) s →
      Decodes s (jWord 0x6F rd offset) (.jal rd offset) ∧
        (target s offset % 4 = 0 →
          JumpsTo (.jal rd offset) (target s offset) rd ((s.pc + 4) % 2 ^ s.cfg.W) s) ∧
        (target s offset % 4 ≠ 0 → TrapsWith (.jal rd offset) (.misaligned (target s offset)) s)) ∧
    (Ready (.jalr rd rs1 imm) s → t = ea s rs1 imm - ea s rs1 imm % 2 →
      Decodes s (iWord 0x67 0 rd rs1 imm) (.jalr rd rs1 imm) ∧
        (t % 4 = 0 → JumpsTo (.jalr rd rs1 imm) t rd ((s.pc + 4) % 2 ^ s.cfg.W) s) ∧
        (t % 4 ≠ 0 → TrapsWith (.jalr rd rs1 imm) (.misaligned t) s))

/-! ### I/O, assertions, system -/

/-- R300, R301: READ and HINT take the next element, reduced modulo `P`, and move their own cursor by one; with none
left they trap. -/
def Obligations.ReadAndHint : Prop :=
  ∀ (s : State) (rd v : Nat),
    (Ready (.read rd) s →
      Decodes s (rWord 0x2B 0 0 rd 0 0) (.read rd) ∧
        (s.inputs[s.inputCursor]? = some v →
          ∃ t, exec (.read rd) s = .next t ∧ Cycled (.read rd) MemAccess.none s t ∧
            t.pc = (s.pc + 4) % 2 ^ s.cfg.W ∧ RegWritten rd (v % s.cfg.P) s t ∧ SameBytes s t ∧
            t.inputCursor = s.inputCursor + 1 ∧ t.hintCursor = s.hintCursor ∧ t.outputs = s.outputs ∧
            t.commitments = s.commitments ∧ t.accessLog = s.accessLog) ∧
        (s.inputs.length ≤ s.inputCursor → TrapsWith (.read rd) (.inputExhausted .input) s)) ∧
    (Ready (.hint rd) s →
      Decodes s (rWord 0x2B 1 0 rd 0 0) (.hint rd) ∧
        (s.hints[s.hintCursor]? = some v →
          ∃ t, exec (.hint rd) s = .next t ∧ Cycled (.hint rd) MemAccess.none s t ∧
            t.pc = (s.pc + 4) % 2 ^ s.cfg.W ∧ RegWritten rd (v % s.cfg.P) s t ∧ SameBytes s t ∧
            t.hintCursor = s.hintCursor + 1 ∧ t.inputCursor = s.inputCursor ∧ t.outputs = s.outputs ∧
            t.commitments = s.commitments ∧ t.accessLog = s.accessLog) ∧
        (s.hints.length ≤ s.hintCursor → TrapsWith (.hint rd) (.inputExhausted .hint) s))

/-- R302, R303: WRITE and COMMIT append the full register value to their own sequence. -/
def Obligations.WriteAndCommit : Prop :=
  ∀ (s : State) (rs1 : Nat),
    (Ready (.write rs1) s →
      Decodes s (rWord 0x2B 2 0 0 rs1 0) (.write rs1) ∧
        ∃ t, exec (.write rs1) s = .next t ∧ Cycled (.write rs1) MemAccess.none s t ∧
          t.pc = (s.pc + 4) % 2 ^ s.cfg.W ∧ SameRegs s t ∧ SameBytes s t ∧
          t.outputs = s.outputs ++ [s.readReg rs1] ∧ t.commitments = s.commitments ∧
          t.inputCursor = s.inputCursor ∧ t.hintCursor = s.hintCursor ∧ t.accessLog = s.accessLog) ∧
    (Ready (.commit rs1) s →
      Decodes s (rWord 0x2B 3 0 0 rs1 0) (.commit rs1) ∧
        ∃ t, exec (.commit rs1) s = .next t ∧ Cycled (.commit rs1) MemAccess.none s t ∧
          t.pc = (s.pc + 4) % 2 ^ s.cfg.W ∧ SameRegs s t ∧ SameBytes s t ∧
          t.commitments = s.commitments ++ [s.readReg rs1] ∧ t.outputs = s.outputs ∧
          t.inputCursor = s.inputCursor ∧ t.hintCursor = s.hintCursor ∧ t.accessLog = s.accessLog)

/-- R304 to R307: an assertion or range check advances the pc and does nothing else, or traps. -/
def Obligations.Assertions : Prop :=
  ∀ (s : State) (rs1 rs2 bits : Nat),
    (Ready (.assertEq rs1 rs2) s →
      Decodes s (rWord 0x5B 0 0 0 rs1 rs2) (.assertEq rs1 rs2) ∧
        (s.readReg rs1 = s.readReg rs2 → CompletesSilently (.assertEq rs1 rs2) s) ∧
        (s.readReg rs1 ≠ s.readReg rs2 → TrapsWith (.assertEq rs1 rs2) .assertionFailed s)) ∧
    (Ready (.assertNe rs1 rs2) s →
      Decodes s (rWord 0x5B 1 0 0 rs1 rs2) (.assertNe rs1 rs2) ∧
        (s.readReg rs1 ≠ s.readReg rs2 → CompletesSilently (.assertNe rs1 rs2) s) ∧
        (s.readReg rs1 = s.readReg rs2 → TrapsWith (.assertNe rs1 rs2) .assertionFailed s)) ∧
    (Ready (.assertZero rs1) s →
      Decodes s (rWord 0x5B 2 0 0 rs1 0) (.assertZero rs1) ∧
        (s.readReg rs1 = 0 → CompletesSilently (.assertZero rs1) s) ∧
        (s.readReg rs1 ≠ 0 → TrapsWith (.assertZero rs1) .assertionFailed s)) ∧
    (Ready (.rangeCheck rs1 bits) s →
      Decodes s (rWord 0x5B 3 0 0 rs1 bits) (.rangeCheck rs1 bits) ∧
        (s.readReg rs1 < 2 ^ bits → CompletesSilently (.rangeCheck rs1 bits) s) ∧
        (2 ^ bits ≤ s.readReg rs1 → TrapsWith (.rangeCheck rs1 bits) .rangeCheckFailed s))

/-- R334, R335, R336: EBREAK always traps, HALT ends the run and keeps the pc, DEBUG only advances the pc. -/
def Obligations.EbreakHaltDebug : Prop :=
  ∀ (s : State) (rs1 : Nat),
    (Ready .ebreak s → Decodes s 0x00100073 .ebreak ∧ TrapsWith .ebreak .breakpoint s) ∧
    (Ready .halt s → Decodes s 0x00200073 .halt ∧ HaltsWith .halt s.mem [] s) ∧
    (Ready (.debug rs1) s →
      Decodes s (iWord 0x73 0 0 rs1 3) (.debug rs1) ∧ CompletesSilently (.debug rs1) s)

/-- R330, R331: ECALL with a number the table does not have traps `UnknownSyscall`; with a number the table has, its
provider's outcome decides (R332): `Ok` writes a0 and a1, commits the memory and the log and completes; a failed access
and `Err` trap with no effect; `Exit` commits and halts. -/
def Obligations.EcallOutcomes : Prop :=
  ∀ (s : State) (p : Provider), Ready .ecall s →
    Decodes s 0x00000073 .ecall ∧
    ((∀ q, (syscallNumber s, q) ∉ s.cfg.syscalls) → TrapsWith .ecall (.unknownSyscall (syscallNumber s)) s) ∧
    ((syscallNumber s, p) ∈ s.cfg.syscalls →
      (∀ res m log, outcomeOf p s = .ok res m log →
        ∃ t, exec .ecall s = .next t ∧ Cycled .ecall MemAccess.none s t ∧ t.pc = (s.pc + 4) % 2 ^ s.cfg.W ∧
          (∀ r, t.readReg r =
            match res with
            | .zero => s.readReg r
            | .one a => if r = 10 then a % s.cfg.P else s.readReg r
            | .two a b => if r = 10 then a % s.cfg.P else if r = 11 then b % s.cfg.P else s.readReg r) ∧
          t.mem = m ∧ SameIO s t ∧ t.accessLog = s.accessLog ++ log) ∧
      (∀ r, outcomeOf p s = .trap r → TrapsWith .ecall r s) ∧
      (∀ code, outcomeOf p s = .err code → TrapsWith .ecall .syscallFailed s) ∧
      (∀ m log, outcomeOf p s = .exit m log → HaltsWith .ecall m log s))

/-- R79, R332: a provider's access is checked as a load's or store's is: the first that fails is the outcome, one that
succeeds moves little-endian bytes, is logged with the ECALL's cycle, and the provider goes on. The form of a provider
is the model's (log 3), and so is that an address of `2^W` or more is checked, and is the payload, as it stands
(log 4). -/
def Obligations.ProviderAccesses : Prop :=
  ∀ (s : State) (a v : Nat) (w : Width) (next : Nat → Proc) (rest : Proc) (m : List Host.Cell) (log : List Access),
    (a % widthBytes w ≠ 0 →
      runProc s (.load a w next) m log = .trap (.misaligned a) ∧
        runProc s (.store a w v rest) m log = .trap (.misaligned a)) ∧
    (a % widthBytes w = 0 → ¬DataAt s a (widthBytes w) →
      runProc s (.load a w next) m log = .trap (.outOfBounds a) ∧
        runProc s (.store a w v rest) m log = .trap (.outOfBounds a)) ∧
    (a % widthBytes w = 0 → DataAt s a (widthBytes w) →
      runProc s (.load a w next) m log =
          runProc s (next (memRead m a (widthBytes w))) m
            (log ++ [{ address := a, width := widthBytes w, cycle := s.cycleCount,
                       value := memRead m a (widthBytes w), kind := .read }]) ∧
        runProc s (.store a w v rest) m log =
          runProc s rest (memWrite m a (widthBytes w) v)
            (log ++ [{ address := a, width := widthBytes w, cycle := s.cycleCount,
                       value := v % 256 ^ widthBytes w, kind := .write }]))

/-- R80, R79: whatever a provider does, the memory it commits differs only in data, heap and stack bytes and keeps its
canonical form, and a trap of it is `Misaligned` or `OutOfBounds`. The form of a provider is the model's (log 3, log 4). -/
def Obligations.ProviderConfined : Prop :=
  ∀ (s : State) (p : Provider), s.Inv →
    (∀ res m log, outcomeOf p s = .ok res m log → Memory.wf m = true ∧
      ∀ a, Memory.read m a ≠ s.readByte a → DataAt s a 1 ∧ ¬CodeAt s a 1) ∧
    (∀ m log, outcomeOf p s = .exit m log → Memory.wf m = true ∧
      ∀ a, Memory.read m a ≠ s.readByte a → DataAt s a 1 ∧ ¬CodeAt s a 1) ∧
    (∀ r, outcomeOf p s = .trap r → ∃ a, r = .misaligned a ∨ r = .outOfBounds a)

/-! ### The machine's own reset state -/

/-- R39, R380 at the run inputs that log 2 chooses: `State.reset`, the reset state of `core`, is what reset gives for the
reference configuration, the empty image with the entry point 0x1000, no inputs, no hints and the limit 1000. -/
def Obligations.ResetIsBoot : Prop :=
  Sys2Proof.core.reset = State.reset ∧
    boot Config.reference { entryPoint := 0x1000, code := [], data := [], bssSize := 0 } [] [] 1000 =
      .next State.reset
end

