-- ==== Sys2Proof/Laws/Memory.lean ====
section
/-! SUPPORT. Memory: every operation keeps the canonical form, and what a byte reads after a write. -/

namespace Sys2Proof.Machine

theorem Memory.wf_cons {a : Nat} {v : Byte} {m : List Host.Cell} :
    Memory.wf ((a, v) :: m) = true ↔ v ≠ 0 ∧ (∀ c ∈ m, a < c.1) ∧ Memory.wf m = true := by
  simp [Memory.wf, and_assoc]

/-- An address below every listed one reads as zero. -/
theorem Memory.read_eq_zero {m : List Host.Cell} {a : Nat} (h : ∀ c ∈ m, a < c.1) : Memory.read m a = 0 := by
  induction m with
  | nil => rfl
  | cons c m ih =>
    obtain ⟨b, v⟩ := c
    have hb : a < b := h (b, v) (by simp)
    rw [Memory.read, if_neg (by omega)]
    exact ih fun c hc => h c (by simp [hc])

/-- A write lists no address but its own beside those listed before. -/
theorem Memory.write_mem {m : List Host.Cell} {a : Nat} {v : Byte} {c : Host.Cell} (h : c ∈ Memory.write m a v) :
    c ∈ m ∨ c.1 = a := by
  induction m with
  | nil => simp only [Memory.write] at h; split at h <;> simp_all
  | cons d m ih =>
    obtain ⟨b, x⟩ := d
    simp only [Memory.write] at h
    split at h
    · split at h
      · exact .inl h
      · rcases List.mem_cons.mp h with rfl | h
        · exact .inr rfl
        · exact .inl h
    · split at h
      · split at h
        · exact .inl (by simp [h])
        · rcases List.mem_cons.mp h with rfl | h
          · exact .inr rfl
          · exact .inl (by simp [h])
      · rcases List.mem_cons.mp h with rfl | h
        · exact .inl (by simp)
        · rcases ih h with h | h
          · exact .inl (by simp [h])
          · exact .inr h

/-- A write keeps the canonical form. -/
theorem Memory.write_wf {m : List Host.Cell} (h : Memory.wf m = true) (a : Nat) (v : Byte) :
    Memory.wf (Memory.write m a v) = true := by
  induction m with
  | nil => simp only [Memory.write]; split <;> simp_all [Memory.wf]
  | cons c m ih =>
    obtain ⟨b, x⟩ := c
    obtain ⟨hx, hb, hm⟩ := Memory.wf_cons.mp h
    simp only [Memory.write]
    split
    · split
      · exact h
      · exact Memory.wf_cons.mpr ⟨by assumption, fun c hc => by
          rcases List.mem_cons.mp hc with rfl | hc
          · assumption
          · exact lt_trans (by assumption) (hb c hc), h⟩
    · split
      · split
        · exact hm
        · subst_vars; exact Memory.wf_cons.mpr ⟨by assumption, hb, hm⟩
      · refine Memory.wf_cons.mpr ⟨hx, fun c hc => ?_, ih hm⟩
        rcases Memory.write_mem hc with hc | hc
        · exact hb c hc
        · omega

/-- A byte after a write (R72). -/
theorem Memory.read_write {m : List Host.Cell} (h : Memory.wf m = true) (a : Nat) (v : Byte) (b : Nat) :
    Memory.read (Memory.write m a v) b = if b = a then v else Memory.read m b := by
  induction m with
  | nil =>
    simp only [Memory.write]
    split <;> split <;> simp_all [Memory.read]
  | cons c m ih =>
    obtain ⟨d, x⟩ := c
    obtain ⟨hx, hd, hm⟩ := Memory.wf_cons.mp h
    simp only [Memory.write]
    split
    · have hz : Memory.read ((d, x) :: m) a = 0 := Memory.read_eq_zero fun c hc => by
        rcases List.mem_cons.mp hc with rfl | hc
        · assumption
        · exact lt_trans (by assumption) (hd c hc)
      split <;> split <;> simp_all [Memory.read]
    · split
      · subst_vars
        have hz : Memory.read m d = 0 := Memory.read_eq_zero hd
        split <;> split <;> simp_all [Memory.read]
      · simp only [Memory.read, ih hm]
        split <;> split <;> simp_all

/-- Writing keeps a bound on the listed addresses. -/
theorem Memory.write_bound {m : List Host.Cell} {n a : Nat} (h : ∀ c ∈ m, c.1 < n) (ha : a < n) (v : Byte) :
    ∀ c ∈ Memory.write m a v, c.1 < n := fun c hc => by
  rcases Memory.write_mem hc with hc | hc
  · exact h c hc
  · omega

theorem memWrite_wf {m : List Host.Cell} (h : Memory.wf m = true) (addr n v : Nat) :
    Memory.wf (memWrite m addr n v) = true := by
  induction n generalizing m addr v with
  | zero => exact h
  | succ n ih => exact ih (Memory.write_wf h _ _) _ _

theorem memWrite_bound {m : List Host.Cell} {top : Nat} (h : ∀ c ∈ m, c.1 < top) (addr n v : Nat)
    (ht : addr + n ≤ top) : ∀ c ∈ memWrite m addr n v, c.1 < top := by
  induction n generalizing m addr v with
  | zero => exact h
  | succ n ih => exact ih (Memory.write_bound h (by omega) _) _ _ (by omega)

/-- A byte outside the stored ones is unchanged (R67). -/
theorem memWrite_read_outside {m : List Host.Cell} (h : Memory.wf m = true) (addr n v a : Nat)
    (ha : a < addr ∨ addr + n ≤ a) : Memory.read (memWrite m addr n v) a = Memory.read m a := by
  induction n generalizing m addr v with
  | zero => rfl
  | succ n ih =>
    rw [memWrite, ih (Memory.write_wf h _ _) _ _ (by omega), Memory.read_write h, if_neg (by omega)]

/-- Stored byte `k` is byte `k` of the value (R67). -/
theorem memWrite_read_inside {m : List Host.Cell} (h : Memory.wf m = true) (addr n v k : Nat) (hk : k < n) :
    (Memory.read (memWrite m addr n v) (addr + k)).toNat = v / 256 ^ k % 256 := by
  induction n generalizing m addr v k with
  | zero => omega
  | succ n ih =>
    rw [memWrite]
    cases k with
    | zero =>
      rw [memWrite_read_outside (Memory.write_wf h _ _) _ _ _ _ (by omega), Memory.read_write h, if_pos (Nat.add_zero _)]
      simp
    | succ k =>
      have := ih (Memory.write_wf h addr (BitVec.ofNat 8 v)) (addr + 1) (v / 256) k (by omega)
      rw [show addr + (k + 1) = addr + 1 + k by omega, this, Nat.div_div_eq_div_mul, pow_succ, Nat.mul_comm]

/-- A value read fits its width (R66). -/
theorem memRead_lt (m : List Host.Cell) (addr n : Nat) : memRead m addr n < 256 ^ n := by
  induction n generalizing addr with
  | zero => simp [memRead]
  | succ n ih =>
    have h1 := ih (addr + 1)
    have h2 := (Memory.read m addr).isLt
    rw [memRead, pow_succ]
    omega

/-- A read depends on the bytes it covers only. -/
theorem memRead_congr {m m' : List Host.Cell} {addr n : Nat}
    (h : ∀ k < n, Memory.read m' (addr + k) = Memory.read m (addr + k)) : memRead m' addr n = memRead m addr n := by
  induction n generalizing addr with
  | zero => rfl
  | succ n ih =>
    have h0 := h 0 (by omega)
    rw [memRead, memRead, ih fun k hk => by
      have := h (k + 1) (by omega)
      rwa [show addr + (k + 1) = addr + 1 + k by omega] at this]
    simp_all

theorem placeBytes_wf {m : List Host.Cell} (h : Memory.wf m = true) (addr : Nat) (bs : List Byte) :
    Memory.wf (placeBytes m addr bs) = true := by
  induction bs generalizing m addr with
  | nil => exact h
  | cons b bs ih => exact ih (Memory.write_wf h _ _) _

theorem placeBytes_bound {m : List Host.Cell} {top : Nat} (h : ∀ c ∈ m, c.1 < top) (addr : Nat) (bs : List Byte)
    (ht : addr + bs.length ≤ top) : ∀ c ∈ placeBytes m addr bs, c.1 < top := by
  induction bs generalizing m addr with
  | nil => exact h
  | cons b bs ih =>
    simp only [List.length_cons] at ht
    exact ih (Memory.write_bound h (by omega) _) _ (by omega)

theorem placeBytes_read_outside {m : List Host.Cell} (h : Memory.wf m = true) (addr : Nat) (bs : List Byte) (a : Nat)
    (ha : a < addr ∨ addr + bs.length ≤ a) : Memory.read (placeBytes m addr bs) a = Memory.read m a := by
  induction bs generalizing m addr with
  | nil => rfl
  | cons b bs ih =>
    simp only [List.length_cons] at ha
    rw [placeBytes, ih (Memory.write_wf h _ _) _ (by omega), Memory.read_write h, if_neg (by omega)]

theorem placeBytes_read_inside {m : List Host.Cell} (h : Memory.wf m = true) (addr : Nat) (bs : List Byte) (k : Nat)
    (hk : k < bs.length) : Memory.read (placeBytes m addr bs) (addr + k) = bs[k] := by
  induction bs generalizing m addr k with
  | nil => simp at hk
  | cons b bs ih =>
    simp only [List.length_cons] at hk
    rw [placeBytes]
    cases k with
    | zero =>
      rw [placeBytes_read_outside (Memory.write_wf h _ _) _ _ _ (by omega), Memory.read_write h, if_pos (Nat.add_zero _)]
      simp
    | succ k =>
      rw [show addr + (k + 1) = addr + 1 + k by omega, ih (Memory.write_wf h _ _) _ _ (by omega)]
      simp

/-- The reset memory is in canonical form. -/
theorem reset_mem_wf : Memory.wf State.reset.mem = true := rfl

end Sys2Proof.Machine
end

