-- ==== Sys2Proof/Laws/State.lean ====
section
/-! SUPPORT. What each shared update does to each field of State, so that no later proof unfolds a record update. -/

namespace Sys2Proof.Machine

/-! ### Register writes (R22) -/

@[simp] theorem writeReg_zero (s : State) (v : Nat) : s.writeReg 0 v = s := rfl

@[simp] theorem writeReg_succ_regs (s : State) (j v : Nat) :
    (s.writeReg (j + 1) v).regs = s.regs.set j (v % s.cfg.P) := rfl

@[simp] theorem writeReg_cfg (s : State) (i v : Nat) : (s.writeReg i v).cfg = s.cfg := by cases i <;> rfl

@[simp] theorem writeReg_codeSize (s : State) (i v : Nat) : (s.writeReg i v).codeSize = s.codeSize := by cases i <;> rfl

@[simp] theorem writeReg_dataSize (s : State) (i v : Nat) : (s.writeReg i v).dataSize = s.dataSize := by cases i <;> rfl

@[simp] theorem writeReg_limit (s : State) (i v : Nat) : (s.writeReg i v).limit = s.limit := by cases i <;> rfl

@[simp] theorem writeReg_inputs (s : State) (i v : Nat) : (s.writeReg i v).inputs = s.inputs := by cases i <;> rfl

@[simp] theorem writeReg_hints (s : State) (i v : Nat) : (s.writeReg i v).hints = s.hints := by cases i <;> rfl

@[simp] theorem writeReg_pc (s : State) (i v : Nat) : (s.writeReg i v).pc = s.pc := by cases i <;> rfl

@[simp] theorem writeReg_mem (s : State) (i v : Nat) : (s.writeReg i v).mem = s.mem := by cases i <;> rfl

@[simp] theorem writeReg_status (s : State) (i v : Nat) : (s.writeReg i v).status = s.status := by cases i <;> rfl

@[simp] theorem writeReg_inputCursor (s : State) (i v : Nat) : (s.writeReg i v).inputCursor = s.inputCursor := by cases i <;> rfl

@[simp] theorem writeReg_hintCursor (s : State) (i v : Nat) : (s.writeReg i v).hintCursor = s.hintCursor := by cases i <;> rfl

@[simp] theorem writeReg_outputs (s : State) (i v : Nat) : (s.writeReg i v).outputs = s.outputs := by cases i <;> rfl

@[simp] theorem writeReg_commitments (s : State) (i v : Nat) : (s.writeReg i v).commitments = s.commitments := by cases i <;> rfl

@[simp] theorem writeReg_cycleCount (s : State) (i v : Nat) : (s.writeReg i v).cycleCount = s.cycleCount := by cases i <;> rfl

@[simp] theorem writeReg_trace (s : State) (i v : Nat) : (s.writeReg i v).trace = s.trace := by cases i <;> rfl

@[simp] theorem writeReg_accessLog (s : State) (i v : Nat) : (s.writeReg i v).accessLog = s.accessLog := by cases i <;> rfl

/-! ### Results of a provider (R332) -/

@[simp] theorem writeResults_cfg (s : State) (r : Results) : (s.writeResults r).cfg = s.cfg := by
  cases r <;> simp [State.writeResults]

@[simp] theorem writeResults_codeSize (s : State) (r : Results) : (s.writeResults r).codeSize = s.codeSize := by
  cases r <;> simp [State.writeResults]

@[simp] theorem writeResults_dataSize (s : State) (r : Results) : (s.writeResults r).dataSize = s.dataSize := by
  cases r <;> simp [State.writeResults]

@[simp] theorem writeResults_limit (s : State) (r : Results) : (s.writeResults r).limit = s.limit := by
  cases r <;> simp [State.writeResults]

@[simp] theorem writeResults_inputs (s : State) (r : Results) : (s.writeResults r).inputs = s.inputs := by
  cases r <;> simp [State.writeResults]

@[simp] theorem writeResults_hints (s : State) (r : Results) : (s.writeResults r).hints = s.hints := by
  cases r <;> simp [State.writeResults]

@[simp] theorem writeResults_pc (s : State) (r : Results) : (s.writeResults r).pc = s.pc := by
  cases r <;> simp [State.writeResults]

@[simp] theorem writeResults_mem (s : State) (r : Results) : (s.writeResults r).mem = s.mem := by
  cases r <;> simp [State.writeResults]

@[simp] theorem writeResults_status (s : State) (r : Results) : (s.writeResults r).status = s.status := by
  cases r <;> simp [State.writeResults]

@[simp] theorem writeResults_inputCursor (s : State) (r : Results) : (s.writeResults r).inputCursor = s.inputCursor := by
  cases r <;> simp [State.writeResults]

@[simp] theorem writeResults_hintCursor (s : State) (r : Results) : (s.writeResults r).hintCursor = s.hintCursor := by
  cases r <;> simp [State.writeResults]

@[simp] theorem writeResults_outputs (s : State) (r : Results) : (s.writeResults r).outputs = s.outputs := by
  cases r <;> simp [State.writeResults]

@[simp] theorem writeResults_commitments (s : State) (r : Results) : (s.writeResults r).commitments = s.commitments := by
  cases r <;> simp [State.writeResults]

@[simp] theorem writeResults_cycleCount (s : State) (r : Results) : (s.writeResults r).cycleCount = s.cycleCount := by
  cases r <;> simp [State.writeResults]

@[simp] theorem writeResults_trace (s : State) (r : Results) : (s.writeResults r).trace = s.trace := by
  cases r <;> simp [State.writeResults]

@[simp] theorem writeResults_accessLog (s : State) (r : Results) : (s.writeResults r).accessLog = s.accessLog := by
  cases r <;> simp [State.writeResults]

/-! ### The end of a cycle (R148) -/

@[simp] theorem endCycle_cfg (s : State) : s.endCycle.cfg = s.cfg := by unfold State.endCycle; split <;> rfl

@[simp] theorem endCycle_codeSize (s : State) : s.endCycle.codeSize = s.codeSize := by unfold State.endCycle; split <;> rfl

@[simp] theorem endCycle_dataSize (s : State) : s.endCycle.dataSize = s.dataSize := by unfold State.endCycle; split <;> rfl

@[simp] theorem endCycle_limit (s : State) : s.endCycle.limit = s.limit := by unfold State.endCycle; split <;> rfl

@[simp] theorem endCycle_inputs (s : State) : s.endCycle.inputs = s.inputs := by unfold State.endCycle; split <;> rfl

@[simp] theorem endCycle_hints (s : State) : s.endCycle.hints = s.hints := by unfold State.endCycle; split <;> rfl

@[simp] theorem endCycle_regs (s : State) : s.endCycle.regs = s.regs := by unfold State.endCycle; split <;> rfl

@[simp] theorem endCycle_pc (s : State) : s.endCycle.pc = s.pc := by unfold State.endCycle; split <;> rfl

@[simp] theorem endCycle_mem (s : State) : s.endCycle.mem = s.mem := by unfold State.endCycle; split <;> rfl

@[simp] theorem endCycle_inputCursor (s : State) : s.endCycle.inputCursor = s.inputCursor := by unfold State.endCycle; split <;> rfl

@[simp] theorem endCycle_hintCursor (s : State) : s.endCycle.hintCursor = s.hintCursor := by unfold State.endCycle; split <;> rfl

@[simp] theorem endCycle_outputs (s : State) : s.endCycle.outputs = s.outputs := by unfold State.endCycle; split <;> rfl

@[simp] theorem endCycle_commitments (s : State) : s.endCycle.commitments = s.commitments := by unfold State.endCycle; split <;> rfl

@[simp] theorem endCycle_trace (s : State) : s.endCycle.trace = s.trace := by unfold State.endCycle; split <;> rfl

@[simp] theorem endCycle_accessLog (s : State) : s.endCycle.accessLog = s.accessLog := by unfold State.endCycle; split <;> rfl

@[simp] theorem endCycle_cycleCount (s : State) : s.endCycle.cycleCount = s.cycleCount + 1 := by
  unfold State.endCycle; split <;> rfl

theorem endCycle_status (s : State) :
    s.endCycle.status =
      if s.status = .running ∧ s.limit ≤ s.cycleCount + 1 then .trapped .cycleLimitExceeded else s.status := by
  unfold State.endCycle; split <;> rfl

/-! ### Trap entry (R146) -/

@[simp] theorem takeTrap_cfg (i : Option Instr) (r : TrapReason) (s : State) :
    (s.takeTrap i r).cfg = s.cfg := by simp [State.takeTrap]

@[simp] theorem takeTrap_codeSize (i : Option Instr) (r : TrapReason) (s : State) :
    (s.takeTrap i r).codeSize = s.codeSize := by simp [State.takeTrap]

@[simp] theorem takeTrap_dataSize (i : Option Instr) (r : TrapReason) (s : State) :
    (s.takeTrap i r).dataSize = s.dataSize := by simp [State.takeTrap]

@[simp] theorem takeTrap_limit (i : Option Instr) (r : TrapReason) (s : State) :
    (s.takeTrap i r).limit = s.limit := by simp [State.takeTrap]

@[simp] theorem takeTrap_inputs (i : Option Instr) (r : TrapReason) (s : State) :
    (s.takeTrap i r).inputs = s.inputs := by simp [State.takeTrap]

@[simp] theorem takeTrap_hints (i : Option Instr) (r : TrapReason) (s : State) :
    (s.takeTrap i r).hints = s.hints := by simp [State.takeTrap]

@[simp] theorem takeTrap_regs (i : Option Instr) (r : TrapReason) (s : State) :
    (s.takeTrap i r).regs = s.regs := by simp [State.takeTrap]

@[simp] theorem takeTrap_pc (i : Option Instr) (r : TrapReason) (s : State) :
    (s.takeTrap i r).pc = s.pc := by simp [State.takeTrap]

@[simp] theorem takeTrap_mem (i : Option Instr) (r : TrapReason) (s : State) :
    (s.takeTrap i r).mem = s.mem := by simp [State.takeTrap]

@[simp] theorem takeTrap_inputCursor (i : Option Instr) (r : TrapReason) (s : State) :
    (s.takeTrap i r).inputCursor = s.inputCursor := by simp [State.takeTrap]

@[simp] theorem takeTrap_hintCursor (i : Option Instr) (r : TrapReason) (s : State) :
    (s.takeTrap i r).hintCursor = s.hintCursor := by simp [State.takeTrap]

@[simp] theorem takeTrap_outputs (i : Option Instr) (r : TrapReason) (s : State) :
    (s.takeTrap i r).outputs = s.outputs := by simp [State.takeTrap]

@[simp] theorem takeTrap_commitments (i : Option Instr) (r : TrapReason) (s : State) :
    (s.takeTrap i r).commitments = s.commitments := by simp [State.takeTrap]

@[simp] theorem takeTrap_accessLog (i : Option Instr) (r : TrapReason) (s : State) :
    (s.takeTrap i r).accessLog = s.accessLog := by simp [State.takeTrap]

@[simp] theorem takeTrap_cycleCount (i : Option Instr) (r : TrapReason) (s : State) :
    (s.takeTrap i r).cycleCount = s.cycleCount + 1 := by simp [State.takeTrap]

@[simp] theorem takeTrap_status (i : Option Instr) (r : TrapReason) (s : State) :
    (s.takeTrap i r).status = .trapped r := by simp [State.takeTrap, endCycle_status]

@[simp] theorem takeTrap_trace (i : Option Instr) (r : TrapReason) (s : State) :
    (s.takeTrap i r).trace = s.trace ++
      [{ cycle := s.cycleCount, pc := s.pc, instr := i, before := s.snapshot, after := s.snapshot,
         access := MemAccess.none, trap := some r }] := by simp [State.takeTrap]

/-! ### Completion (R147 to R149) -/

@[simp] theorem retire_cfg (i : Instr) (a : MemAccess) (s t : State) :
    (s.retire i a t).cfg = t.cfg := by simp [State.retire]

@[simp] theorem retire_codeSize (i : Instr) (a : MemAccess) (s t : State) :
    (s.retire i a t).codeSize = t.codeSize := by simp [State.retire]

@[simp] theorem retire_dataSize (i : Instr) (a : MemAccess) (s t : State) :
    (s.retire i a t).dataSize = t.dataSize := by simp [State.retire]

@[simp] theorem retire_limit (i : Instr) (a : MemAccess) (s t : State) :
    (s.retire i a t).limit = t.limit := by simp [State.retire]

@[simp] theorem retire_inputs (i : Instr) (a : MemAccess) (s t : State) :
    (s.retire i a t).inputs = t.inputs := by simp [State.retire]

@[simp] theorem retire_hints (i : Instr) (a : MemAccess) (s t : State) :
    (s.retire i a t).hints = t.hints := by simp [State.retire]

@[simp] theorem retire_regs (i : Instr) (a : MemAccess) (s t : State) :
    (s.retire i a t).regs = t.regs := by simp [State.retire]

@[simp] theorem retire_pc (i : Instr) (a : MemAccess) (s t : State) :
    (s.retire i a t).pc = t.pc := by simp [State.retire]

@[simp] theorem retire_mem (i : Instr) (a : MemAccess) (s t : State) :
    (s.retire i a t).mem = t.mem := by simp [State.retire]

@[simp] theorem retire_inputCursor (i : Instr) (a : MemAccess) (s t : State) :
    (s.retire i a t).inputCursor = t.inputCursor := by simp [State.retire]

@[simp] theorem retire_hintCursor (i : Instr) (a : MemAccess) (s t : State) :
    (s.retire i a t).hintCursor = t.hintCursor := by simp [State.retire]

@[simp] theorem retire_outputs (i : Instr) (a : MemAccess) (s t : State) :
    (s.retire i a t).outputs = t.outputs := by simp [State.retire]

@[simp] theorem retire_commitments (i : Instr) (a : MemAccess) (s t : State) :
    (s.retire i a t).commitments = t.commitments := by simp [State.retire]

@[simp] theorem retire_accessLog (i : Instr) (a : MemAccess) (s t : State) :
    (s.retire i a t).accessLog = t.accessLog := by simp [State.retire]

@[simp] theorem retire_cycleCount (i : Instr) (a : MemAccess) (s t : State) :
    (s.retire i a t).cycleCount = t.cycleCount + 1 := by simp [State.retire]

theorem retire_status (i : Instr) (a : MemAccess) (s t : State) :
    (s.retire i a t).status =
      if t.status = .running ∧ t.limit ≤ t.cycleCount + 1 then .trapped .cycleLimitExceeded else t.status := by
  simp [State.retire, endCycle_status]

@[simp] theorem retire_trace (i : Instr) (a : MemAccess) (s t : State) :
    (s.retire i a t).trace = s.trace ++
      [{ cycle := s.cycleCount, pc := s.pc, instr := some i, before := s.snapshot, after := t.snapshot,
         access := a, trap := none }] := by simp [State.retire]

/-! ### Reads that depend on one field -/

theorem readReg_congr {s t : State} (h : t.regs = s.regs) (r : Nat) : t.readReg r = s.readReg r := by
  cases r <;> simp [State.readReg, h]

theorem snapshot_congr {s t : State} (h : t.regs = s.regs) : t.snapshot = s.snapshot := by
  simp [State.snapshot, h]

theorem readByte_congr {s t : State} (h : t.mem = s.mem) (a : Nat) : t.readByte a = s.readByte a := by
  simp [State.readByte, h]

@[simp] theorem readReg_zero (s : State) : s.readReg 0 = 0 := rfl

/-! ### A placed word (log 9) -/

@[simp] theorem placeWord_cfg (s : State) (w : Word) : (s.placeWord w).cfg = s.cfg := rfl

@[simp] theorem placeWord_dataSize (s : State) (w : Word) : (s.placeWord w).dataSize = s.dataSize := rfl

@[simp] theorem placeWord_limit (s : State) (w : Word) : (s.placeWord w).limit = s.limit := rfl

@[simp] theorem placeWord_inputs (s : State) (w : Word) : (s.placeWord w).inputs = s.inputs := rfl

@[simp] theorem placeWord_hints (s : State) (w : Word) : (s.placeWord w).hints = s.hints := rfl

@[simp] theorem placeWord_regs (s : State) (w : Word) : (s.placeWord w).regs = s.regs := rfl

@[simp] theorem placeWord_inputCursor (s : State) (w : Word) : (s.placeWord w).inputCursor = s.inputCursor := rfl

@[simp] theorem placeWord_hintCursor (s : State) (w : Word) : (s.placeWord w).hintCursor = s.hintCursor := rfl

@[simp] theorem placeWord_outputs (s : State) (w : Word) : (s.placeWord w).outputs = s.outputs := rfl

@[simp] theorem placeWord_commitments (s : State) (w : Word) : (s.placeWord w).commitments = s.commitments := rfl

@[simp] theorem placeWord_cycleCount (s : State) (w : Word) : (s.placeWord w).cycleCount = s.cycleCount := rfl

@[simp] theorem placeWord_trace (s : State) (w : Word) : (s.placeWord w).trace = s.trace := rfl

@[simp] theorem placeWord_accessLog (s : State) (w : Word) : (s.placeWord w).accessLog = s.accessLog := rfl

end Sys2Proof.Machine
end

