-- ==== Sys2Proof/Laws/Ops.lean ====
section
/-! SUPPORT. Everything each shared operation can do, said once: provers cite these and do not unfold the operation. -/

namespace Sys2Proof.Machine

theorem divide_cases {i : Instr} {rd rs2 v : Nat} {s : State} {o : Result} (h : divide i rd rs2 v s = o) :
    (s.regU rs2 = 0 ∧ o = trap i .divByZero s) ∨ (s.regU rs2 ≠ 0 ∧ o = writeResult i rd v s) := by
  unfold divide at h; split at h
  · exact .inl ⟨‹_›, h.symm⟩
  · exact .inr ⟨‹_›, h.symm⟩

theorem requirePredicate_cases {i : Instr} {b : Bool} {r : TrapReason} {s : State} {o : Result}
    (h : requirePredicate i b r s = o) : (b = true ∧ o = complete i s s) ∨ (b = false ∧ o = trap i r s) := by
  unfold requirePredicate at h; cases b <;> simp_all

theorem transfer_cases {i : Instr} {target : Nat} {s t : State} {o : Result} (h : transfer i target s t = o) :
    (target % 4 ≠ 0 ∧ o = trap i (.misaligned target) s) ∨
      (target % 4 = 0 ∧ o = .next (s.retire i MemAccess.none { t with pc := target })) := by
  unfold transfer at h; split at h
  · exact .inl ⟨‹_›, h.symm⟩
  · exact .inr ⟨by omega, h.symm⟩

theorem branch_cases {i : Instr} {c : Bool} {offset : Int} {s : State} {o : Result} (h : branch i c offset s = o) :
    (c = false ∧ o = complete i s s) ∨ (c = true ∧ o = transfer i (s.relativeTarget offset) s s) := by
  unfold branch at h; cases c <;> simp_all

theorem checkData_eq_none {s : State} {addr n : Nat} :
    s.checkData addr n = none ↔ addr % n = 0 ∧ s.inData addr n = true := by
  unfold State.checkData; split
  · simp_all
  · split <;> simp_all

/-- The two ways a data access fails (R68). -/
theorem checkData_eq_some {s : State} {addr n : Nat} {r : TrapReason} :
    s.checkData addr n = some r ↔
      (addr % n ≠ 0 ∧ r = .misaligned addr) ∨ (addr % n = 0 ∧ s.inData addr n = false ∧ r = .outOfBounds addr) := by
  unfold State.checkData
  split
  · rename_i ha
    exact ⟨fun h => .inl ⟨ha, (Option.some.inj h).symm⟩, by rintro (⟨-, rfl⟩ | ⟨h, -⟩); rfl; exact absurd h ha⟩
  · rename_i ha
    have ha : addr % n = 0 := by simpa using ha
    split
    · rename_i hd
      exact ⟨fun h => (by cases h), by rintro (⟨h, -⟩ | ⟨-, h, -⟩); exact absurd ha h; rw [hd] at h; cases h⟩
    · rename_i hd
      exact ⟨fun h => .inr ⟨ha, by simpa using hd, (Option.some.inj h).symm⟩,
        by rintro (⟨h, -⟩ | ⟨-, -, rfl⟩); exact absurd ha h; rfl⟩

theorem load_cases {i : Instr} {rd rs1 : Nat} {imm : Int} {w : Width} {ext : Nat → Nat} {s : State} {o : Result}
    (h : load i rd rs1 imm w ext s = o) :
    (∃ r, s.checkData (s.effectiveAddress rs1 imm) (widthBytes w) = some r ∧ o = trap i r s) ∨
      (s.checkData (s.effectiveAddress rs1 imm) (widthBytes w) = none ∧
        o = .next (s.retire i
          (s.access (s.effectiveAddress rs1 imm) w
            (memRead s.mem (s.effectiveAddress rs1 imm) (widthBytes w)) .read).inRow
          { s.writeReg rd (ext (memRead s.mem (s.effectiveAddress rs1 imm) (widthBytes w))) with
            accessLog := s.accessLog ++ [s.access (s.effectiveAddress rs1 imm) w
              (memRead s.mem (s.effectiveAddress rs1 imm) (widthBytes w)) .read]
            pc := s.nextPc })) := by
  unfold load at h; split at h
  · exact .inl ⟨_, ‹_›, h.symm⟩
  · exact .inr ⟨‹_›, h.symm⟩

theorem store_cases {i : Instr} {rs1 rs2 : Nat} {imm : Int} {w : Width} {s : State} {o : Result}
    (h : store i rs1 rs2 imm w s = o) :
    (∃ r, s.checkData (s.effectiveAddress rs1 imm) (widthBytes w) = some r ∧ o = trap i r s) ∨
      (s.checkData (s.effectiveAddress rs1 imm) (widthBytes w) = none ∧
        o = .next (s.retire i
          (s.access (s.effectiveAddress rs1 imm) w (s.readReg rs2 % 256 ^ widthBytes w) .write).inRow
          { s with
            mem := memWrite s.mem (s.effectiveAddress rs1 imm) (widthBytes w) (s.readReg rs2)
            accessLog := s.accessLog ++
              [s.access (s.effectiveAddress rs1 imm) w (s.readReg rs2 % 256 ^ widthBytes w) .write]
            pc := s.nextPc })) := by
  unfold store at h; split at h
  · exact .inl ⟨_, ‹_›, h.symm⟩
  · exact .inr ⟨‹_›, h.symm⟩

/-- What an ECALL can do (R330, R332). -/
theorem execEcall_cases {s : State} {o : Result} (h : execEcall s = o) :
    (findProvider s.cfg.syscalls (s.readReg s.syscallRegister) = none ∧
        o = trap .ecall (.unknownSyscall (s.readReg s.syscallRegister)) s) ∨
      ∃ p, findProvider s.cfg.syscalls (s.readReg s.syscallRegister) = some p ∧
        ((∃ r m log, runProc s (providerProc s.cfg.W s.syscallArgs p) s.mem [] = .ok r m log ∧
            o = complete .ecall s { s.writeResults r with mem := m, accessLog := s.accessLog ++ log }) ∨
          (∃ r, runProc s (providerProc s.cfg.W s.syscallArgs p) s.mem [] = .trap r ∧ o = trap .ecall r s) ∨
          (∃ c, runProc s (providerProc s.cfg.W s.syscallArgs p) s.mem [] = .err c ∧
            o = trap .ecall .syscallFailed s) ∨
          (∃ m log, runProc s (providerProc s.cfg.W s.syscallArgs p) s.mem [] = .exit m log ∧
            o = halt .ecall s { s with mem := m, accessLog := s.accessLog ++ log })) := by
  unfold execEcall at h
  split at h
  · exact .inl ⟨‹_›, h.symm⟩
  · rename_i p hp
    refine .inr ⟨p, hp, ?_⟩
    rcases hr : runProc s (providerProc s.cfg.W s.syscallArgs p) s.mem [] with ⟨r, m, log⟩ | r | c | ⟨m, log⟩ <;>
      rw [hr] at h <;> simp only [applyOutcome] at h
    · exact .inl ⟨r, m, log, rfl, h.symm⟩
    · exact .inr (.inl ⟨r, rfl, h.symm⟩)
    · exact .inr (.inr (.inl ⟨c, rfl, h.symm⟩))
    · exact .inr (.inr (.inr ⟨m, log, rfl, h.symm⟩))

end Sys2Proof.Machine
end

