-- ==== Sys2Proof/Laws/Provider.lean ====
section
/-! SUPPORT. What a syscall provider can do to memory and to the access log, whatever it is (R79, R80, R332). -/

namespace Sys2Proof.Machine

/-- A provider's effect on memory and log, relative to the memory and log it started from. -/
structure ProviderEffect (s : State) (m m' : List Host.Cell) (log log' : List Access) : Prop where
  /-- The canonical form is kept. -/
  wf : Memory.wf m = true → Memory.wf m' = true
  /-- A byte that changed lies in the data, heap or stack segment. -/
  changed : Memory.wf m = true → ∀ a, Memory.read m' a ≠ Memory.read m a → s.inData a 1 = true
  /-- No address outside the address space gets listed. -/
  bound : ∀ top, (∀ a n, s.inData a n = true → a + n ≤ top) → (∀ c ∈ m, c.1 < top) → ∀ c ∈ m', c.1 < top
  /-- The log grows at its end, with entries of the current cycle. -/
  log : ∃ new, log' = log ++ new ∧ ∀ e ∈ new, e.cycle = s.cycleCount

theorem ProviderEffect.refl (s : State) (m : List Host.Cell) (log : List Access) : ProviderEffect s m m log log :=
  ⟨fun h => h, fun _ _ h => absurd rfl h, fun _ _ h => h, [], by simp⟩

/-- Every byte of an access inside a data segment is inside it. -/
theorem inData_byte {s : State} {addr n a : Nat} (h : s.inData addr n = true) (h1 : addr ≤ a) (h2 : a < addr + n) :
    s.inData a 1 = true := by
  simp only [State.inData, inSegment, Bool.or_eq_true, Bool.and_eq_true, decide_eq_true_eq] at h ⊢
  omega

/-- The memory of a store that passed its check. -/
theorem memWrite_changed {s : State} {m : List Host.Cell} (hm : Memory.wf m = true) {addr n v a : Nat}
    (hd : s.inData addr n = true) (h : Memory.read (memWrite m addr n v) a ≠ Memory.read m a) :
    s.inData a 1 = true := by
  by_cases ha : a < addr ∨ addr + n ≤ a
  · exact absurd (memWrite_read_outside hm _ _ _ _ ha) h
  · exact inData_byte hd (by omega) (by omega)

/-- What a provider's course leaves behind when it ends in `Ok` or `Exit`. -/
theorem runProc_effect (s : State) (p : Proc) :
    ∀ m log,
      (∀ r m' log', runProc s p m log = .ok r m' log' → ProviderEffect s m m' log log') ∧
        (∀ m' log', runProc s p m log = .exit m' log' → ProviderEffect s m m' log log') := by
  induction p with
  | ok r =>
    refine fun m log => ⟨fun r' m' log' h => ?_, fun m' log' h => ?_⟩ <;> simp only [runProc] at h
    · cases h; exact .refl _ _ _
    · cases h
  | err c => exact fun m log => ⟨fun _ _ _ h => (by cases h), fun _ _ h => (by cases h)⟩
  | exit =>
    refine fun m log => ⟨fun _ _ _ h => (by cases h), fun m' log' h => ?_⟩
    simp only [runProc] at h; cases h; exact .refl _ _ _
  | load addr w next ih =>
    intro m log
    have key : ∀ {m' log'} (v : Nat) (e : Access), e.cycle = s.cycleCount →
        ProviderEffect s m m' (log ++ [e]) log' → ProviderEffect s m m' log log' := by
      rintro m' log' v e he ⟨a, b, c, new, rfl, hn⟩
      exact ⟨a, b, c, e :: new, by simp, by simpa [he] using hn⟩
    refine ⟨fun r' m' log' h => ?_, fun m' log' h => ?_⟩ <;> simp only [runProc] at h <;> split at h
    · cases h
    · exact key 0 _ rfl ((ih _ _ _).1 _ _ _ h)
    · cases h
    · exact key 0 _ rfl ((ih _ _ _).2 _ _ h)
  | store addr w value next ih =>
    intro m log
    have key : ∀ {m' log'} (e : Access), e.cycle = s.cycleCount → s.inData addr (widthBytes w) = true →
        ProviderEffect s (memWrite m addr (widthBytes w) value) m' (log ++ [e]) log' →
          ProviderEffect s m m' log log' := by
      rintro m' log' e he hd ⟨a, b, c, new, rfl, hn⟩
      refine ⟨fun h => a (memWrite_wf h _ _ _), fun h x hx => ?_, fun top ht h => ?_, e :: new, by simp,
        by simpa [he] using hn⟩
      · by_cases hy : Memory.read (memWrite m addr (widthBytes w) value) x = Memory.read m x
        · exact b (memWrite_wf h _ _ _) x (by rwa [hy])
        · exact memWrite_changed h hd hy
      · exact c top ht (memWrite_bound h _ _ _ (ht _ _ hd))
    refine ⟨fun r' m' log' h => ?_, fun m' log' h => ?_⟩ <;> simp only [runProc] at h <;> split at h
    · cases h
    · exact key _ rfl (checkData_eq_none.mp ‹_›).2 ((ih _ _).1 _ _ _ h)
    · cases h
    · exact key _ rfl (checkData_eq_none.mp ‹_›).2 ((ih _ _).2 _ _ h)

/-- A provider's trap is one of the two reasons of a failed access (R332). -/
theorem runProc_trap (s : State) (p : Proc) : ∀ m log r, runProc s p m log = .trap r →
    ∃ a, r = .misaligned a ∨ r = .outOfBounds a := by
  have key : ∀ {addr n r}, s.checkData addr n = some r → ∃ a, r = .misaligned a ∨ r = .outOfBounds a := by
    intro addr n r h
    rcases checkData_eq_some.mp h with ⟨-, rfl⟩ | ⟨-, -, rfl⟩
    · exact ⟨_, .inl rfl⟩
    · exact ⟨_, .inr rfl⟩
  induction p with
  | ok r => intro m log r h; cases h
  | err c => intro m log r h; cases h
  | exit => intro m log r h; cases h
  | load addr w next ih =>
    intro m log r h; simp only [runProc] at h; split at h
    · cases h; exact key ‹_›
    · exact ih _ _ _ _ h
  | store addr w value next ih =>
    intro m log r h; simp only [runProc] at h; split at h
    · cases h; exact key ‹_›
    · exact ih _ _ _ h

end Sys2Proof.Machine
end

