-- ==== Sys2Proof/Laws/Registers.lean ====
section
/-! SUPPORT. What a register reads after a write (R21, R22), and that a write keeps the file's shape and bound. -/

namespace Sys2Proof.Machine

theorem writeReg_length (s : State) (i v : Nat) : (s.writeReg i v).regs.length = s.regs.length := by
  cases i <;> simp

/-- Any register after a write to one that exists (R22). -/
theorem readReg_writeReg (s : State) (i v r : Nat) (hi : i < s.regs.length + 1) :
    (s.writeReg i v).readReg r = if r = i ∧ r ≠ 0 then v % s.cfg.P else s.readReg r := by
  cases i with
  | zero => rw [writeReg_zero, if_neg (by omega)]
  | succ j =>
    cases r with
    | zero => rfl
    | succ k =>
      simp only [State.readReg, writeReg_succ_regs, List.getD_eq_getElem?_getD, List.getElem?_set]
      by_cases h : j = k
      · subst h
        rw [if_pos rfl, if_pos (by omega), if_pos (by omega)]; rfl
      · rw [if_neg h, if_neg (by omega)]

theorem writeReg_bound {s : State} (hP : 0 < s.cfg.P) (h : ∀ v ∈ s.regs, v < s.cfg.P) (i v : Nat) :
    ∀ x ∈ (s.writeReg i v).regs, x < s.cfg.P := by
  cases i with
  | zero => exact h
  | succ j =>
    intro x hx
    rcases List.mem_or_eq_of_mem_set hx with hx | rfl
    · exact h x hx
    · exact Nat.mod_lt _ hP

theorem readReg_lt {s : State} (hP : 0 < s.cfg.P) (h : ∀ v ∈ s.regs, v < s.cfg.P) (r : Nat) : s.readReg r < s.cfg.P := by
  cases r with
  | zero => exact hP
  | succ k =>
    simp only [State.readReg, List.getD_eq_getElem?_getD]
    rcases hk : s.regs[k]? with _ | v
    · exact hP
    · exact h v (List.mem_of_getElem? hk)

/-- A register after a provider's results (R332): only a0 and a1 can change. -/
theorem readReg_writeResults (s : State) (res : Results) (r : Nat) (h0 : r ≠ 10) (h1 : r ≠ 11)
    (hl : 11 < s.regs.length + 1) : (s.writeResults res).readReg r = s.readReg r := by
  cases res with
  | zero => rfl
  | one a => rw [State.writeResults, readReg_writeReg _ _ _ _ (by omega), if_neg (by omega)]
  | two a b =>
    rw [State.writeResults, readReg_writeReg _ _ _ _ (by rw [writeReg_length]; omega), if_neg (by omega),
      readReg_writeReg _ _ _ _ (by omega), if_neg (by omega)]

theorem writeResults_length (s : State) (res : Results) : (s.writeResults res).regs.length = s.regs.length := by
  cases res <;> simp [State.writeResults]

theorem writeResults_bound {s : State} (hP : 0 < s.cfg.P) (h : ∀ v ∈ s.regs, v < s.cfg.P) (res : Results) :
    ∀ x ∈ (s.writeResults res).regs, x < s.cfg.P := by
  cases res with
  | zero => exact h
  | one a => exact writeReg_bound hP h _ _
  | two a b =>
    have h10 : ∀ x ∈ (s.writeReg 10 a).regs, x < (s.writeReg 10 a).cfg.P := by
      rw [writeReg_cfg]; exact writeReg_bound hP h _ _
    intro x hx
    have := writeReg_bound (by rw [writeReg_cfg]; exact hP) h10 11 b x hx
    rwa [writeReg_cfg] at this

end Sys2Proof.Machine
end

