-- ==== Sys2Proof/Laws/Exec.lean ====
section
/-! SUPPORT. Everything an instruction can do, said once: it traps, or it ends its cycle from a state that differs from
the start only as `Effect` says. -/

namespace Sys2Proof.Machine

/-- How the state `t` an instruction hands to the end of the cycle can differ from the start `s`. -/
structure Effect (s t : State) : Prop where
  cfg : t.cfg = s.cfg
  codeSize : t.codeSize = s.codeSize
  dataSize : t.dataSize = s.dataSize
  limit : t.limit = s.limit
  inputs : t.inputs = s.inputs
  hints : t.hints = s.hints
  cycleCount : t.cycleCount = s.cycleCount
  trace : t.trace = s.trace
  /-- The status stays, or becomes Halted with the pc kept. -/
  status : t.status = s.status ∨ (t.status = .halted ∧ t.pc = s.pc)
  /-- A new pc is the next instruction's, an aligned W-bit target, or the old one of a halt. -/
  pc : t.pc = s.nextPc ∨ (t.pc % 4 = 0 ∧ t.pc < 2 ^ s.cfg.W) ∨ t.status = .halted
  length : t.regs.length = s.regs.length
  bound : 0 < s.cfg.P → (∀ v ∈ s.regs, v < s.cfg.P) → ∀ v ∈ t.regs, v < s.cfg.P
  memory : ∃ log, ProviderEffect s s.mem t.mem s.accessLog log
  log : ∃ new, t.accessLog = s.accessLog ++ new ∧ ∀ e ∈ new, e.cycle = s.cycleCount
  inputCursor : t.inputCursor = s.inputCursor ∨
    (t.inputCursor = s.inputCursor + 1 ∧ s.inputCursor < s.inputs.length)
  hintCursor : t.hintCursor = s.hintCursor ∨
    (t.hintCursor = s.hintCursor + 1 ∧ s.hintCursor < s.hints.length)
  outputs : t.outputs = s.outputs ∨ ∃ r, t.outputs = s.outputs ++ [s.readReg r]
  commitments : t.commitments = s.commitments ∨ ∃ r, t.commitments = s.commitments ++ [s.readReg r]

/-- The two ways the instruction `i` ends its cycle. No instruction raises CycleLimitExceeded (R350). -/
inductive Ends (i : Instr) (s : State) : Result → Prop
  | trapped (r : TrapReason) (hr : r ≠ .cycleLimitExceeded) : Ends i s (.next (s.takeTrap (some i) r))
  | retired (acc : MemAccess) (t : State) (e : Effect s t) : Ends i s (.next (s.retire i acc t))

theorem wrap_lt (W : Nat) (z : Int) : wrap W z < 2 ^ W := by
  have h : (0 : Int) < 2 ^ W := by positivity
  have h1 := Int.emod_nonneg z h.ne'
  have h2 := Int.emod_lt_of_pos z h
  have : ((wrap W z : Nat) : Int) < ((2 ^ W : Nat) : Int) := by
    rw [wrap, Int.toNat_of_nonneg h1]; push_cast; exact h2
  exact_mod_cast this

/-- The base case of `Effect`: a register write and the next pc. -/
theorem Effect.writeReg (s : State) (rd v : Nat) : Effect s { s.writeReg rd v with pc := s.nextPc } where
  cfg := by simp
  codeSize := by simp
  dataSize := by simp
  limit := by simp
  inputs := by simp
  hints := by simp
  cycleCount := by simp
  trace := by simp
  status := .inl (by simp)
  pc := .inl rfl
  length := writeReg_length _ _ _
  bound := fun hP h => writeReg_bound hP h _ _
  memory := ⟨s.accessLog, by simpa using .refl _ _ _⟩
  log := ⟨[], by simp⟩
  inputCursor := .inl (by simp)
  hintCursor := .inl (by simp)
  outputs := .inl (by simp)
  commitments := .inl (by simp)

/-- Nothing but the next pc. -/
theorem Effect.skip (s : State) : Effect s { s with pc := s.nextPc } := Effect.writeReg s 0 0

theorem ends_trap (i : Instr) {r : TrapReason} (hr : r ≠ .cycleLimitExceeded) (s : State) : Ends i s (trap i r s) :=
  .trapped r hr

theorem checkData_ne_limit {s : State} {a n : Nat} {r : TrapReason} (h : s.checkData a n = some r) :
    r ≠ .cycleLimitExceeded := by
  rcases checkData_eq_some.mp h with ⟨-, rfl⟩ | ⟨-, -, rfl⟩ <;> simp

theorem ends_writeResult (i : Instr) (rd v : Nat) (s : State) : Ends i s (writeResult i rd v s) :=
  .retired _ _ (.writeReg s rd v)

theorem ends_complete (i : Instr) (s : State) : Ends i s (complete i s s) := .retired _ _ (.skip s)

theorem ends_divide (i : Instr) (rd rs2 v : Nat) (s : State) : Ends i s (divide i rd rs2 v s) := by
  rcases divide_cases (rfl : divide i rd rs2 v s = _) with ⟨-, h⟩ | ⟨-, h⟩ <;> rw [h]
  · exact ends_trap _ (by simp) _
  · exact ends_writeResult _ _ _ _

theorem ends_requirePredicate (i : Instr) (b : Bool) {r : TrapReason} (hr : r ≠ .cycleLimitExceeded) (s : State) :
    Ends i s (requirePredicate i b r s) := by
  rcases requirePredicate_cases (rfl : requirePredicate i b r s = _) with ⟨-, h⟩ | ⟨-, h⟩ <;> rw [h]
  · exact ends_complete _ _
  · exact ends_trap _ hr _

theorem ends_load (i : Instr) (rd rs1 : Nat) (imm : Int) (w : Width) (ext : Nat → Nat) (s : State) :
    Ends i s (load i rd rs1 imm w ext s) := by
  rcases load_cases (rfl : load i rd rs1 imm w ext s = _) with ⟨r, hc, h⟩ | ⟨-, h⟩ <;> rw [h]
  · exact ends_trap _ (checkData_ne_limit hc) _
  · exact .retired _ _ { Effect.writeReg s rd _ with log := ⟨[_], rfl, by simp [State.access]⟩ }

theorem ends_store (i : Instr) (rs1 rs2 : Nat) (imm : Int) (w : Width) (s : State) :
    Ends i s (store i rs1 rs2 imm w s) := by
  rcases store_cases (rfl : store i rs1 rs2 imm w s = _) with ⟨r, hn, h⟩ | ⟨hc, h⟩ <;> rw [h]
  · exact ends_trap _ (checkData_ne_limit hn) _
  · have hd := (checkData_eq_none.mp hc).2
    refine .retired _ _ { Effect.skip s with
      memory := ⟨s.accessLog, fun h => memWrite_wf h _ _ _, fun h a ha => memWrite_changed h hd ha,
        fun top ht h => memWrite_bound h _ _ _ (ht _ _ hd), [], by simp⟩
      log := ⟨[_], rfl, by simp [State.access]⟩ }

theorem ends_transfer (i : Instr) (target rd v : Nat) (s : State) (hlt : target < 2 ^ s.cfg.W) :
    Ends i s (transfer i target s (s.writeReg rd v)) := by
  rcases transfer_cases (rfl : transfer i target s (s.writeReg rd v) = _) with ⟨-, h⟩ | ⟨ha, h⟩ <;> rw [h]
  · exact ends_trap _ (by simp) _
  · have e := Effect.writeReg s rd v
    exact .retired _ _ { e with pc := .inr (.inl ⟨ha, hlt⟩), status := .inl (by simp) }

theorem ends_branch (i : Instr) (c : Bool) (offset : Int) (s : State) : Ends i s (branch i c offset s) := by
  rcases branch_cases (rfl : branch i c offset s = _) with ⟨-, h⟩ | ⟨-, h⟩ <;> rw [h]
  · exact ends_complete _ _
  · exact ends_transfer i _ 0 0 s (wrap_lt _ _)

theorem ends_execEcall (s : State) : Ends .ecall s (execEcall s) := by
  rcases execEcall_cases (rfl : execEcall s = _) with ⟨-, h⟩ | ⟨p, -, ⟨r, m, log, hr, h⟩ | ⟨r, ht, h⟩ | ⟨c, -, h⟩ |
    ⟨m, log, hr, h⟩⟩ <;> rw [h]
  · exact ends_trap _ (by simp) _
  · have hp := (runProc_effect s _ _ _).1 _ _ _ hr
    obtain ⟨new, hl, hn⟩ := hp.log
    refine .retired _ _ ?_
    exact
      { cfg := by simp, codeSize := by simp, dataSize := by simp, limit := by simp, inputs := by simp
        hints := by simp, cycleCount := by simp, trace := by simp, status := .inl (by simp), pc := .inl rfl
        length := writeResults_length _ _
        bound := fun hP h => writeResults_bound hP h _
        memory := ⟨s.accessLog, hp.wf, hp.changed, hp.bound, [], by simp⟩
        log := ⟨log, rfl, by rw [hl]; simpa using hn⟩
        inputCursor := .inl (by simp), hintCursor := .inl (by simp), outputs := .inl (by simp)
        commitments := .inl (by simp) }
  · refine ends_trap _ ?_ _
    obtain ⟨a, rfl | rfl⟩ := runProc_trap _ _ _ _ _ ht <;> simp
  · exact ends_trap _ (by simp) _
  · have hp := (runProc_effect s _ _ _).2 _ _ hr
    obtain ⟨new, hl, hn⟩ := hp.log
    refine .retired _ _ { Effect.skip s with
      status := .inr ⟨rfl, rfl⟩
      pc := .inr (.inr rfl)
      memory := ⟨s.accessLog, hp.wf, hp.changed, hp.bound, [], by simp⟩
      log := ⟨log, rfl, by rw [hl]; simpa using hn⟩ }

theorem jalrTarget_lt (s : State) (rs1 : Nat) (imm : Int) : jalrTarget s rs1 imm < 2 ^ s.cfg.W := by
  unfold jalrTarget State.wrap
  exact lt_of_le_of_lt (Nat.sub_le _ _) (wrap_lt _ _)

/-- Every instruction traps or ends its cycle from an `Effect`. -/
theorem exec_ends (i : Instr) (s : State) : Ends i s (exec i s) := by
  cases i with
  | add | sub | sll | slt | sltu | xor | srl | sra | or | and | mul | addi | slti | sltiu | xori | ori | andi
  | slli | srli | srai | lui | auipc | fadd | fsub | fmul | fneg => exact ends_writeResult _ _ _ _
  | div | divu | rem | remu => exact ends_divide _ _ _ _ _
  | lb | lh | lw | lbu | lhu =>
    simp only [exec, execLb, execLh, execLw, execLbu, execLhu]; exact ends_load _ _ _ _ _ _ _
  | sb | sh | sw => exact ends_store _ _ _ _ _ _
  | beq | bne | blt | bge | bltu | bgeu => exact ends_branch _ _ _ _
  | jal => exact ends_transfer _ _ _ _ _ (wrap_lt _ _)
  | jalr => exact ends_transfer _ _ _ _ _ (jalrTarget_lt _ _ _)
  | ecall => exact ends_execEcall s
  | ebreak => exact ends_trap _ (by simp) _
  | halt =>
    exact .retired _ _ { Effect.skip s with status := .inr ⟨rfl, rfl⟩, pc := .inr (.inr rfl) }
  | debug => exact ends_complete _ _
  | finv =>
    simp only [exec, execFinv]; split
    · exact ends_trap _ (by simp) _
    · exact ends_writeResult _ _ _ _
  | read =>
    simp only [exec, execRead]; split
    · exact ends_trap _ (by simp) _
    · rename_i v hv
      exact .retired _ _ { Effect.writeReg s _ v with
        inputCursor := .inr ⟨rfl, (List.getElem?_eq_some_iff.mp hv).1⟩ }
  | hint =>
    simp only [exec, execHint]; split
    · exact ends_trap _ (by simp) _
    · rename_i v hv
      exact .retired _ _ { Effect.writeReg s _ v with
        hintCursor := .inr ⟨rfl, (List.getElem?_eq_some_iff.mp hv).1⟩ }
  | write => exact .retired _ _ { Effect.skip s with outputs := .inr ⟨_, rfl⟩ }
  | commit => exact .retired _ _ { Effect.skip s with commitments := .inr ⟨_, rfl⟩ }
  | assertEq | assertNe | assertZero | rangeCheck => exact ends_requirePredicate _ _ (by simp) _

/-- Fetch and decode raise their own three reasons only (R141, R142, R144). -/
theorem fetchDecode_ne_limit {s : State} {r : TrapReason} (h : s.fetchDecode = .error r) :
    r ≠ .cycleLimitExceeded := by
  unfold State.fetchDecode State.fetch at h
  split at h
  · rename_i hf; split_ifs at hf <;> cases hf <;> cases h <;> simp
  · split at h <;> cases h; simp

/-- What a step from a running state does: a trap of fetch or decode, or the decoded instruction. -/
theorem step_cases {s : State} (hs : s.status = .running) :
    (∃ r, s.fetchDecode = .error r ∧ step s = .next (s.takeTrap none r)) ∨
      ∃ i, s.fetchDecode = .ok i ∧ step s = exec i s := by
  unfold step
  rw [hs]
  rcases h : s.fetchDecode with r | i
  · exact .inl ⟨r, rfl, rfl⟩
  · exact .inr ⟨i, rfl, rfl⟩

/-- A step of a state that is not running is the model's one fault. -/
theorem step_ended {s : State} (hs : s.status ≠ .running) : step s = .fault (.runEnded s.status) := by
  unfold step
  rcases h : s.status with - | - | r
  · exact absurd h hs
  · rfl
  · rfl

/-- The two forms of the next state of a step. -/
theorem step_forms {s : State} (hs : s.status = .running) :
    (∃ i r, step s = .next (s.takeTrap i r) ∧ r ≠ .cycleLimitExceeded) ∨
      ∃ i acc t, step s = .next (s.retire i acc t) ∧ Effect s t := by
  rcases step_cases hs with ⟨r, hr, h⟩ | ⟨i, -, h⟩
  · exact .inl ⟨none, r, h, fetchDecode_ne_limit hr⟩
  · rw [h]
    have := exec_ends i s
    generalize exec i s = o at this
    cases this with
    | trapped r hr => exact .inl ⟨_, r, rfl, hr⟩
    | retired acc t e => exact .inr ⟨i, acc, t, rfl, e⟩

theorem running_of_next {s t : State} (h : step s = .next t) : s.status = .running := by
  by_contra hs
  rw [step_ended hs] at h; cases h

end Sys2Proof.Machine
end

