-- ==== Sys2Proof/Laws/Completion.lean ====
section
/-! SUPPORT. From the form of an instruction's meaning to what the statements say of it: `CompletesWith`, `LoadsTo`,
`TrapsWith` and their kin, each once. -/

namespace Sys2Proof.Machine

/-! ### What the invariant gives -/

theorem Ready.inv {i : Instr} {s : State} (h : Ready i s) : s.Inv := h.1

theorem Ready.running {i : Instr} {s : State} (h : Ready i s) : s.status = .running := h.2.1

theorem State.Inv.pos {s : State} (h : s.Inv) : 0 < s.cfg.P := h.config.1.1.pos

theorem State.Inv.width {s : State} (h : s.Inv) : 2 ^ s.cfg.W < s.cfg.P := h.config.1.2.1

theorem State.Inv.registers {s : State} (h : s.Inv) : s.cfg.N = 16 ∨ s.cfg.N = 32 := h.config.1.2.2.2.2

theorem State.Inv.length {s : State} (h : s.Inv) : s.regs.length + 1 = s.cfg.N := by
  have := h.registerCount; have := h.registers; omega

/-- Every register an instruction names exists. -/
theorem Ready.register {i : Instr} {s : State} (h : Ready i s) {r : Nat} (hr : r ∈ i.registers) : r < s.cfg.N := by
  have h := h.2.2
  simp only [Instr.wellFormed, Instr.registersBelow, Bool.and_eq_true, List.all_eq_true, decide_eq_true_eq] at h
  exact h.1 r hr

/-! ### The operands of the statements are the operands of the meanings -/

theorem regU_eq (s : State) (r : Nat) : s.regU r = u s r := rfl

theorem regS_eq (s : State) (r : Nat) (hW : 1 ≤ s.cfg.W) : s.regS r = sg s r := by
  obtain ⟨k, hk⟩ : ∃ k, s.cfg.W = k + 1 := ⟨s.cfg.W - 1, by omega⟩
  unfold State.regS sg sView uView Int.bmod
  rw [hk]
  have h2 : (2 : Nat) ^ (k + 1) = 2 * 2 ^ k := by ring
  have h3 : (((2 : Nat) ^ (k + 1) : Nat) : Int) = 2 * 2 ^ k := by push_cast; ring
  have h4 : ((s.readReg r % 2 ^ (k + 1) : Nat) : Int) = (s.readReg r : Int) % (2 * 2 ^ k) := by push_cast; ring_nf
  have h5 : ((2 : Nat) ^ k : Int) = 2 ^ k := by push_cast; rfl
  simp only [Nat.add_sub_cancel, h3]
  rw [h4]
  have h6 : (2 * 2 ^ k + 1 : Int) / 2 = 2 ^ k := by omega
  rw [h6]
  have h7 : (s.readReg r % 2 ^ (k + 1) < 2 ^ k) ↔ ((s.readReg r : Int) % (2 * 2 ^ k) < 2 ^ k) := by
    rw [← h4]; exact_mod_cast Iff.rfl
  simp only [h7]
  split
  · rfl
  · ring

theorem effectiveAddress_eq (s : State) (rs1 : Nat) (imm : Int) : s.effectiveAddress rs1 imm = ea s rs1 imm := rfl

theorem relativeTarget_eq (s : State) (offset : Int) : s.relativeTarget offset = target s offset := rfl

theorem inData_iff (s : State) (a n : Nat) : s.inData a n = true ↔ DataAt s a n := by
  simp [State.inData, DataAt, inSegment, or_assoc]

theorem inCode_iff (s : State) (a n : Nat) : s.inCode a n = true ↔ CodeAt s a n := by
  simp [State.inCode, CodeAt, inSegment]

theorem memRead_eq (m : List Host.Cell) (a n : Nat) :
    memRead m a n = ∑ k ∈ Finset.range n, 256 ^ k * (Memory.read m (a + k)).toNat := by
  induction n generalizing a with
  | zero => rfl
  | succ n ih =>
    rw [memRead, ih, Finset.sum_range_succ', Finset.mul_sum, Nat.add_comm]
    congr 1
    · exact Finset.sum_congr rfl fun k _ => by rw [show a + 1 + k = a + (k + 1) by omega]; ring
    · simp

theorem memRead_state (s : State) (a n : Nat) : memRead s.mem a n = valueAt s a n := memRead_eq _ _ _

/-- `sext_W` of R9 is the two's-complement value of the field, modulo `2^W`. -/
theorem sext_eq {W k f : Nat} (hk : 1 ≤ k) (hkW : k ≤ W) (hf : f < 2 ^ k) :
    sext W f k = ((f : Int).bmod (2 ^ k) % 2 ^ W).toNat := by
  obtain ⟨j, rfl⟩ : ∃ j, k = j + 1 := ⟨k - 1, by omega⟩
  have hle : (2 : Nat) ^ (j + 1) ≤ 2 ^ W := Nat.pow_le_pow_right (by omega) hkW
  have h2 : (2 : Nat) ^ (j + 1) = 2 * 2 ^ j := by ring
  have h6 : ((((2 : Nat) ^ (j + 1) : Nat) : Int) + 1) / 2 = ((2 ^ j : Nat) : Int) := by omega
  have hW : ((2 : Int) ^ W) = ((2 ^ W : Nat) : Int) := by push_cast; rfl
  have hf' : (f : Int) % ((2 ^ (j + 1) : Nat) : Int) = f := Int.emod_eq_of_lt (by omega) (by exact_mod_cast hf)
  unfold sext Int.bmod
  simp only [Nat.add_sub_cancel, hf', h6, hW, Nat.cast_lt]
  split_ifs
  · rw [Int.emod_eq_of_lt (by omega) (by omega)]; omega
  · rw [← Int.add_emod_right, Int.emod_eq_of_lt (by omega) (by omega)]; omega

/-! ### Forms of a meaning -/

theorem statusAfter_eq {s : State} (i : Instr) (acc : MemAccess) {t : State} (hs : s.status = .running) (e : Effect s t)
    (ht : t.status = s.status) : (s.retire i acc t).status = statusAfter s := by
  rw [retire_status, statusAfter, ht, hs, e.limit, e.cycleCount]
  simp

theorem cycled_retire {i : Instr} {acc : MemAccess} {s t : State} (hs : s.status = .running) (e : Effect s t)
    (ht : t.status = s.status) : Cycled i acc s (s.retire i acc t) where
  run := ⟨by simp [e.cfg], by simp [e.codeSize], by simp [e.dataSize], by simp [e.limit], by simp [e.inputs],
    by simp [e.hints]⟩
  row := by rw [RowAdded, retire_trace, snapshot_congr (retire_regs i acc s t)]
  count := by simp [e.cycleCount]
  status := statusAfter_eq i acc hs e ht

theorem takeTrap_entered (i : Option Instr) (r : TrapReason) (s : State) : TrapEntered i r s (s.takeTrap i r) where
  run := ⟨by simp, by simp, by simp, by simp, by simp, by simp⟩
  status := by simp
  row := by rw [RowAdded, takeTrap_trace, snapshot_congr (takeTrap_regs i r s)]
  count := by simp
  regs := by simp
  pc := by simp
  mem := by simp
  io := ⟨by simp, by simp, by simp, by simp⟩
  log := by simp

theorem trapsWith {i : Instr} {r : TrapReason} {s : State} (h : exec i s = trap i r s) : TrapsWith i r s :=
  ⟨_, h, takeTrap_entered _ _ _⟩

/-- The registers after a write, at the end of the cycle. -/
theorem regWritten {s t : State} (hs : s.Inv) {rd v v' : Nat} (hrd : rd < s.cfg.N) (hv : v' % s.cfg.P = v)
    (ht : t.regs = (s.writeReg rd v').regs) : RegWritten rd v s t := by
  intro r
  rw [readReg_congr ht, readReg_writeReg _ _ _ _ (by rw [hs.length]; exact hrd), hv]

theorem completesWith {i : Instr} {rd v v' : Nat} {s : State} (hr : Ready i s) (hrd : rd < s.cfg.N)
    (h : exec i s = writeResult i rd v' s) (hv : v' % s.cfg.P = v) : CompletesWith i rd v s :=
  ⟨_, h, cycled_retire hr.running (.writeReg s rd v') (by simp), by simp [State.nextPc],
    regWritten hr.inv hrd hv (by simp), readByte_congr (by simp), ⟨by simp, by simp, by simp, by simp⟩, by simp⟩

theorem completesSilently {i : Instr} {s : State} (hs : s.status = .running) (h : exec i s = complete i s s) :
    CompletesSilently i s :=
  ⟨_, h, cycled_retire hs (.skip s) (by simp), by simp [State.nextPc], readReg_congr (by simp),
    readByte_congr (by simp), ⟨by simp, by simp, by simp, by simp⟩, by simp⟩

theorem jumpsTo {i : Instr} {a rd v v' : Nat} {s : State} (hr : Ready i s) (hrd : rd < s.cfg.N)
    (h : exec i s = transfer i a s (s.writeReg rd v')) (hv : v' % s.cfg.P = v) (ha : a % 4 = 0)
    (hlt : a < 2 ^ s.cfg.W) : JumpsTo i a rd v s := by
  rcases transfer_cases h.symm with ⟨hn, -⟩ | ⟨-, h⟩
  · exact absurd ha hn
  · have e := Effect.writeReg s rd v'
    exact ⟨_, h, cycled_retire hr.running { e with pc := .inr (.inl ⟨ha, hlt⟩), status := .inl (by simp) } (by simp),
      by simp, regWritten hr.inv hrd hv (by simp), readByte_congr (by simp), ⟨by simp, by simp, by simp, by simp⟩, by simp⟩

theorem goesTo {i : Instr} {a : Nat} {s : State} (hr : Ready i s) (h : exec i s = transfer i a s s) (ha : a % 4 = 0)
    (hlt : a < 2 ^ s.cfg.W) : GoesTo i a s := by
  rcases transfer_cases h.symm with ⟨hn, -⟩ | ⟨-, h⟩
  · exact absurd ha hn
  · have e := Effect.skip s
    exact ⟨_, h, cycled_retire hr.running { e with pc := .inr (.inl ⟨ha, hlt⟩), status := .inl (by simp) } (by simp),
      by simp, readReg_congr (by simp), readByte_congr (by simp), ⟨by simp, by simp, by simp, by simp⟩, by simp⟩

theorem transfer_traps {i : Instr} {a : Nat} {s t : State} (h : exec i s = transfer i a s t) (ha : a % 4 ≠ 0) :
    TrapsWith i (.misaligned a) s := by
  rcases transfer_cases h.symm with ⟨-, h⟩ | ⟨hn, -⟩
  · exact trapsWith h
  · exact absurd hn ha

theorem loadsTo {i : Instr} {rd rs1 : Nat} {imm : Int} {w : Width} {ext : Nat → Nat} {s : State} {v : Nat}
    (hr : Ready i s) (hrd : rd < s.cfg.N) (h : exec i s = load i rd rs1 imm w ext s)
    (ha : ea s rs1 imm % widthBytes w = 0) (hd : DataAt s (ea s rs1 imm) (widthBytes w))
    (hv : ext (valueAt s (ea s rs1 imm) (widthBytes w)) % s.cfg.P = v) :
    LoadsTo i (ea s rs1 imm) (widthBytes w) (valueAt s (ea s rs1 imm) (widthBytes w)) rd v s := by
  have hc : s.checkData (s.effectiveAddress rs1 imm) (widthBytes w) = none :=
    checkData_eq_none.mpr ⟨ha, (inData_iff _ _ _).mpr hd⟩
  rcases load_cases h.symm with ⟨r, hn, -⟩ | ⟨-, h⟩
  · rw [hc] at hn; cases hn
  · rw [effectiveAddress_eq, memRead_state] at h
    exact ⟨_, h,
      cycled_retire hr.running { Effect.writeReg s rd _ with log := ⟨[_], rfl, by simp [State.access]⟩ } (by simp),
      by simp [State.nextPc], regWritten hr.inv hrd hv (by simp), readByte_congr (by simp),
      ⟨by simp, by simp, by simp, by simp⟩, by simp [State.access]⟩

theorem storesTo {i : Instr} {rs1 rs2 : Nat} {imm : Int} {w : Width} {s : State} (hr : Ready i s)
    (h : exec i s = store i rs1 rs2 imm w s) (ha : ea s rs1 imm % widthBytes w = 0)
    (hd : DataAt s (ea s rs1 imm) (widthBytes w)) :
    StoresTo i (ea s rs1 imm) (widthBytes w) (s.readReg rs2) s := by
  have hd' := (inData_iff _ _ _).mpr hd
  have hc : s.checkData (s.effectiveAddress rs1 imm) (widthBytes w) = none := checkData_eq_none.mpr ⟨ha, hd'⟩
  rcases store_cases h.symm with ⟨r, hn, -⟩ | ⟨-, h⟩
  · rw [hc] at hn; cases hn
  · rw [effectiveAddress_eq] at h
    have hm := hr.inv.memoryForm
    refine ⟨_, h, cycled_retire hr.running { Effect.skip s with
        memory := ⟨s.accessLog, fun h => memWrite_wf h _ _ _, fun h a ha => memWrite_changed h hd' ha,
          fun top ht h => memWrite_bound h _ _ _ (ht _ _ hd'), [], by simp⟩
        log := ⟨[_], rfl, by simp [State.access]⟩ } (by simp),
      by simp [State.nextPc], readReg_congr (by simp), ⟨by simp, by simp, by simp, by simp⟩, fun k hk => ?_,
      fun a ha => ?_, by simp [State.access]⟩
    · simp only [State.readByte, retire_mem]
      exact memWrite_read_inside hm _ _ _ _ hk
    · simp only [State.readByte, retire_mem]
      exact memWrite_read_outside hm _ _ _ _ ha

/-- The two ways a data access fails, on the statements' operands. -/
theorem checkData_misaligned {s : State} {a n : Nat} (h : a % n ≠ 0) : s.checkData a n = some (.misaligned a) :=
  checkData_eq_some.mpr (.inl ⟨h, rfl⟩)

theorem checkData_outOfBounds {s : State} {a n : Nat} (h : a % n = 0) (hd : ¬DataAt s a n) :
    s.checkData a n = some (.outOfBounds a) :=
  checkData_eq_some.mpr (.inr ⟨h, by
    rcases hb : s.inData a n with - | -
    · rfl
    · exact absurd ((inData_iff _ _ _).mp hb) hd, rfl⟩)

end Sys2Proof.Machine
end

