-- ==== Sys2Proof/Laws/Decode.lean ====
section
/-! SUPPORT. The bits of an encoded word, the fields read back from it, and the table: no two rows overlap, so the row
that covers a word is the one decoding finds. -/

namespace Sys2Proof

/-! ### The bits of each format (R102 to R107) -/

theorem encodeR_bit (f7 : BitVec 7) (r2 r1 : BitVec 5) (f3 : BitVec 3) (d : BitVec 5) (op : BitVec 7) (k : Nat) :
    (encodeR f7 r2 r1 f3 d op).getLsbD k =
      if k < 7 then op.getLsbD k else if k < 12 then d.getLsbD (k - 7) else if k < 15 then f3.getLsbD (k - 12)
      else if k < 20 then r1.getLsbD (k - 15) else if k < 25 then r2.getLsbD (k - 20) else f7.getLsbD (k - 25) := by
  change BitVec.getLsbD (w := 7 + 5 + 5 + 3 + 5 + 7) (f7 ++ r2 ++ r1 ++ f3 ++ d ++ op) k = _
  simp only [BitVec.getLsbD_append]
  split_ifs <;> first | rfl | omega

theorem encodeI_bit (imm : BitVec 12) (r1 : BitVec 5) (f3 : BitVec 3) (d : BitVec 5) (op : BitVec 7) (k : Nat) :
    (encodeI imm r1 f3 d op).getLsbD k =
      if k < 7 then op.getLsbD k else if k < 12 then d.getLsbD (k - 7) else if k < 15 then f3.getLsbD (k - 12)
      else if k < 20 then r1.getLsbD (k - 15) else imm.getLsbD (k - 20) := by
  change BitVec.getLsbD (w := 12 + 5 + 3 + 5 + 7) (imm ++ r1 ++ f3 ++ d ++ op) k = _
  simp only [BitVec.getLsbD_append]
  split_ifs <;> first | rfl | omega

theorem encodeS_bit (imm : BitVec 12) (r2 r1 : BitVec 5) (f3 : BitVec 3) (op : BitVec 7) (k : Nat) (hk : k < 32) :
    (encodeS imm r2 r1 f3 op).getLsbD k =
      if k < 7 then op.getLsbD k else if k < 12 then imm.getLsbD (k - 7) else if k < 15 then f3.getLsbD (k - 12)
      else if k < 20 then r1.getLsbD (k - 15) else if k < 25 then r2.getLsbD (k - 20) else imm.getLsbD (k - 20) := by
  change BitVec.getLsbD (w := 7 + 5 + 5 + 3 + 5 + 7)
    (imm.extractLsb' 5 7 ++ r2 ++ r1 ++ f3 ++ imm.extractLsb' 0 5 ++ op) k = _
  simp only [BitVec.getLsbD_append, BitVec.getLsbD_extractLsb']
  interval_cases k <;> simp

theorem encodeB_bit (o : BitVec 13) (r2 r1 : BitVec 5) (f3 : BitVec 3) (op : BitVec 7) (k : Nat) (hk : k < 32) :
    (encodeB o r2 r1 f3 op).getLsbD k =
      if k < 7 then op.getLsbD k else if k < 8 then o.getLsbD 11 else if k < 12 then o.getLsbD (k - 7)
      else if k < 15 then f3.getLsbD (k - 12) else if k < 20 then r1.getLsbD (k - 15)
      else if k < 25 then r2.getLsbD (k - 20) else if k < 31 then o.getLsbD (k - 20) else o.getLsbD 12 := by
  change BitVec.getLsbD (w := 1 + 6 + 5 + 5 + 3 + 4 + 1 + 7) (o.extractLsb' 12 1 ++ o.extractLsb' 5 6 ++ r2 ++ r1 ++
    f3 ++ o.extractLsb' 1 4 ++ o.extractLsb' 11 1 ++ op) k = _
  simp only [BitVec.getLsbD_append, BitVec.getLsbD_extractLsb']
  interval_cases k <;> simp

theorem encodeU_bit (imm : BitVec 20) (d : BitVec 5) (op : BitVec 7) (k : Nat) :
    (encodeU imm d op).getLsbD k =
      if k < 7 then op.getLsbD k else if k < 12 then d.getLsbD (k - 7) else imm.getLsbD (k - 12) := by
  change BitVec.getLsbD (w := 20 + 5 + 7) (imm ++ d ++ op) k = _
  simp only [BitVec.getLsbD_append]
  split_ifs <;> first | rfl | omega

theorem encodeJ_bit (o : BitVec 21) (d : BitVec 5) (op : BitVec 7) (k : Nat) (hk : k < 32) :
    (encodeJ o d op).getLsbD k =
      if k < 7 then op.getLsbD k else if k < 12 then d.getLsbD (k - 7) else if k < 20 then o.getLsbD k
      else if k < 21 then o.getLsbD 11 else if k < 31 then o.getLsbD (k - 20) else o.getLsbD 20 := by
  change BitVec.getLsbD (w := 1 + 10 + 1 + 8 + 5 + 7) (o.extractLsb' 20 1 ++ o.extractLsb' 1 10 ++
    o.extractLsb' 11 1 ++ o.extractLsb' 12 8 ++ d ++ op) k = _
  simp only [BitVec.getLsbD_append, BitVec.getLsbD_extractLsb']
  interval_cases k <;> simp

/-! ### The fields read back -/

theorem fields_encodeR (f7 : BitVec 7) (r2 r1 : BitVec 5) (f3 : BitVec 3) (d : BitVec 5) (op : BitVec 7) :
    rdOf (encodeR f7 r2 r1 f3 d op) = d.toNat ∧ rs1Of (encodeR f7 r2 r1 f3 d op) = r1.toNat ∧
      rs2Of (encodeR f7 r2 r1 f3 d op) = r2.toNat ∧ shamtOf (encodeR f7 r2 r1 f3 d op) = r2.toNat ∧
      bitsOf (encodeR f7 r2 r1 f3 d op) = r2.toNat := by
  refine ⟨congrArg BitVec.toNat ?_, congrArg BitVec.toNat ?_, congrArg BitVec.toNat ?_, congrArg BitVec.toNat ?_, congrArg BitVec.toNat ?_⟩ <;>
    (ext i hi; rw [BitVec.getElem_extractLsb', encodeR_bit]; interval_cases i <;> simp)

theorem fields_encodeI (imm : BitVec 12) (r1 : BitVec 5) (f3 : BitVec 3) (d : BitVec 5) (op : BitVec 7) :
    rdOf (encodeI imm r1 f3 d op) = d.toNat ∧ rs1Of (encodeI imm r1 f3 d op) = r1.toNat ∧
      immI (encodeI imm r1 f3 d op) = imm.toInt := by
  refine ⟨congrArg BitVec.toNat ?_, congrArg BitVec.toNat ?_, congrArg BitVec.toInt ?_⟩ <;>
    (ext i hi; rw [BitVec.getElem_extractLsb', encodeI_bit]; interval_cases i <;> simp)

theorem fields_encodeS (imm : BitVec 12) (r2 r1 : BitVec 5) (f3 : BitVec 3) (op : BitVec 7) :
    rs1Of (encodeS imm r2 r1 f3 op) = r1.toNat ∧ rs2Of (encodeS imm r2 r1 f3 op) = r2.toNat ∧
      immS (encodeS imm r2 r1 f3 op) = imm.toInt := by
  refine ⟨congrArg BitVec.toNat ?_, congrArg BitVec.toNat ?_, congrArg BitVec.toInt ?_⟩
  · ext i hi; rw [BitVec.getElem_extractLsb', encodeS_bit _ _ _ _ _ _ (by omega)]; interval_cases i <;> simp
  · ext i hi; rw [BitVec.getElem_extractLsb', encodeS_bit _ _ _ _ _ _ (by omega)]; interval_cases i <;> simp
  · apply BitVec.eq_of_getLsbD_eq
    intro i hi
    simp only [BitVec.getLsbD_append, BitVec.getLsbD_extractLsb']
    have hi : i < 12 := hi
    interval_cases i <;> simp [-BitVec.getLsbD_eq_getElem, encodeS_bit]

theorem fields_encodeB (o : BitVec 13) (ho : o.getLsbD 0 = false) (r2 r1 : BitVec 5) (f3 : BitVec 3) (op : BitVec 7) :
    rs1Of (encodeB o r2 r1 f3 op) = r1.toNat ∧ rs2Of (encodeB o r2 r1 f3 op) = r2.toNat ∧
      immB (encodeB o r2 r1 f3 op) = o.toInt := by
  refine ⟨congrArg BitVec.toNat ?_, congrArg BitVec.toNat ?_, congrArg BitVec.toInt ?_⟩
  · ext i hi; rw [BitVec.getElem_extractLsb', encodeB_bit _ _ _ _ _ _ (by omega)]; interval_cases i <;> simp
  · ext i hi; rw [BitVec.getElem_extractLsb', encodeB_bit _ _ _ _ _ _ (by omega)]; interval_cases i <;> simp
  · apply BitVec.eq_of_getLsbD_eq
    intro i hi
    simp only [BitVec.getLsbD_append, BitVec.getLsbD_extractLsb']
    have hi : i < 13 := hi
    interval_cases i <;> simp [-BitVec.getLsbD_eq_getElem, encodeB_bit, ho]

theorem fields_encodeU (imm : BitVec 20) (d : BitVec 5) (op : BitVec 7) :
    rdOf (encodeU imm d op) = d.toNat ∧ imm20Of (encodeU imm d op) = imm.toNat := by
  refine ⟨congrArg BitVec.toNat ?_, congrArg BitVec.toNat ?_⟩ <;>
    (ext i hi; rw [BitVec.getElem_extractLsb', encodeU_bit]; interval_cases i <;> simp)

theorem fields_encodeJ (o : BitVec 21) (ho : o.getLsbD 0 = false) (d : BitVec 5) (op : BitVec 7) :
    rdOf (encodeJ o d op) = d.toNat ∧ immJ (encodeJ o d op) = o.toInt := by
  refine ⟨congrArg BitVec.toNat ?_, congrArg BitVec.toInt ?_⟩
  · ext i hi; rw [BitVec.getElem_extractLsb', encodeJ_bit _ _ _ _ (by omega)]; interval_cases i <;> simp
  · apply BitVec.eq_of_getLsbD_eq
    intro i hi
    simp only [BitVec.getLsbD_append, BitVec.getLsbD_extractLsb']
    have hi : i < 21 := hi
    interval_cases i <;> simp [-BitVec.getLsbD_eq_getElem, encodeJ_bit, ho]

/-! ### The bits a row's mask keeps -/

theorem encodeR_and (f7 : BitVec 7) (r2 r1 : BitVec 5) (f3 : BitVec 3) (d : BitVec 5) (op : BitVec 7) :
    encodeR f7 r2 r1 f3 d op &&& 0xFE00707F#32 = encodeR f7 0 0 f3 0 op := by
  ext i hi
  rw [← BitVec.getLsbD_eq_getElem, ← BitVec.getLsbD_eq_getElem, BitVec.getLsbD_and, encodeR_bit, encodeR_bit]
  interval_cases i <;> simp

theorem encodeR_and_noRd (f7 : BitVec 7) (r2 r1 : BitVec 5) (f3 : BitVec 3) (d : BitVec 5) (op : BitVec 7) :
    encodeR f7 r2 r1 f3 d op &&& 0xFE007FFF#32 = encodeR f7 0 0 f3 d op := by
  ext i hi
  rw [← BitVec.getLsbD_eq_getElem, ← BitVec.getLsbD_eq_getElem, BitVec.getLsbD_and, encodeR_bit, encodeR_bit]
  interval_cases i <;> simp

theorem encodeR_and_noRs2 (f7 : BitVec 7) (r2 r1 : BitVec 5) (f3 : BitVec 3) (d : BitVec 5) (op : BitVec 7) :
    encodeR f7 r2 r1 f3 d op &&& 0xFFF0707F#32 = encodeR f7 r2 0 f3 0 op := by
  ext i hi
  rw [← BitVec.getLsbD_eq_getElem, ← BitVec.getLsbD_eq_getElem, BitVec.getLsbD_and, encodeR_bit, encodeR_bit]
  interval_cases i <;> simp

theorem encodeR_and_rs1Only (f7 : BitVec 7) (r2 r1 : BitVec 5) (f3 : BitVec 3) (d : BitVec 5) (op : BitVec 7) :
    encodeR f7 r2 r1 f3 d op &&& 0xFFF07FFF#32 = encodeR f7 r2 0 f3 d op := by
  ext i hi
  rw [← BitVec.getLsbD_eq_getElem, ← BitVec.getLsbD_eq_getElem, BitVec.getLsbD_and, encodeR_bit, encodeR_bit]
  interval_cases i <;> simp

theorem encodeR_and_rdOnly (f7 : BitVec 7) (r2 r1 : BitVec 5) (f3 : BitVec 3) (d : BitVec 5) (op : BitVec 7) :
    encodeR f7 r2 r1 f3 d op &&& 0xFFFFF07F#32 = encodeR f7 r2 r1 f3 0 op := by
  ext i hi
  rw [← BitVec.getLsbD_eq_getElem, ← BitVec.getLsbD_eq_getElem, BitVec.getLsbD_and, encodeR_bit, encodeR_bit]
  interval_cases i <;> simp

theorem encodeI_and (imm : BitVec 12) (r1 : BitVec 5) (f3 : BitVec 3) (d : BitVec 5) (op : BitVec 7) :
    encodeI imm r1 f3 d op &&& 0x0000707F#32 = encodeI 0 0 f3 0 op := by
  ext i hi
  rw [← BitVec.getLsbD_eq_getElem, ← BitVec.getLsbD_eq_getElem, BitVec.getLsbD_and, encodeI_bit, encodeI_bit]
  interval_cases i <;> simp

theorem encodeI_and_rs1Only (imm : BitVec 12) (r1 : BitVec 5) (f3 : BitVec 3) (d : BitVec 5) (op : BitVec 7) :
    encodeI imm r1 f3 d op &&& 0xFFF07FFF#32 = encodeI imm 0 f3 d op := by
  ext i hi
  rw [← BitVec.getLsbD_eq_getElem, ← BitVec.getLsbD_eq_getElem, BitVec.getLsbD_and, encodeI_bit, encodeI_bit]
  interval_cases i <;> simp

theorem encodeS_and (imm : BitVec 12) (r2 r1 : BitVec 5) (f3 : BitVec 3) (op : BitVec 7) :
    encodeS imm r2 r1 f3 op &&& 0x0000707F#32 = encodeS 0 0 0 f3 op := by
  ext i hi
  rw [← BitVec.getLsbD_eq_getElem, ← BitVec.getLsbD_eq_getElem, BitVec.getLsbD_and, encodeS_bit _ _ _ _ _ _ hi,
    encodeS_bit _ _ _ _ _ _ hi]
  interval_cases i <;> simp

theorem encodeB_and (o : BitVec 13) (r2 r1 : BitVec 5) (f3 : BitVec 3) (op : BitVec 7) :
    encodeB o r2 r1 f3 op &&& 0x0000707F#32 = encodeB 0 0 0 f3 op := by
  ext i hi
  rw [← BitVec.getLsbD_eq_getElem, ← BitVec.getLsbD_eq_getElem, BitVec.getLsbD_and, encodeB_bit _ _ _ _ _ _ hi,
    encodeB_bit _ _ _ _ _ _ hi]
  interval_cases i <;> simp

theorem encodeU_and (imm : BitVec 20) (d : BitVec 5) (op : BitVec 7) :
    encodeU imm d op &&& 0x0000007F#32 = encodeU 0 0 op := by
  ext i hi
  rw [← BitVec.getLsbD_eq_getElem, ← BitVec.getLsbD_eq_getElem, BitVec.getLsbD_and, encodeU_bit, encodeU_bit]
  interval_cases i <;> simp

theorem encodeJ_and (o : BitVec 21) (d : BitVec 5) (op : BitVec 7) :
    encodeJ o d op &&& 0x0000007F#32 = encodeJ 0 0 op := by
  ext i hi
  rw [← BitVec.getLsbD_eq_getElem, ← BitVec.getLsbD_eq_getElem, BitVec.getLsbD_and, encodeJ_bit _ _ _ _ hi,
    encodeJ_bit _ _ _ _ hi]
  interval_cases i <;> simp

/-! ### Operands and their fields -/

theorem reg_toNat {r n : Nat} (h : r < n) (hn : n ≤ 32) : (reg r).toNat = r := by
  simp only [reg, BitVec.toNat_ofNat]; omega

theorem field5_toNat {r : Nat} (h : r < 32) : (BitVec.ofNat 5 r).toNat = r := by
  simp only [BitVec.toNat_ofNat]; omega

theorem field20_toNat {v : Nat} (h : v < 2 ^ 20) : (BitVec.ofNat 20 v).toNat = v := by
  simp only [BitVec.toNat_ofNat]; omega

theorem imm12_toInt {imm : Int} (h : immInRange imm = true) : (BitVec.ofInt 12 imm).toInt = imm := by
  simp only [immInRange, Bool.and_eq_true, decide_eq_true_eq] at h
  rw [BitVec.toInt_ofInt]; simp only [Int.bmod]; omega

theorem off13_toInt {o : Int} (h : branchOffsetOk o = true) :
    (BitVec.ofInt 13 o).toInt = o ∧ (BitVec.ofInt 13 o).getLsbD 0 = false := by
  simp only [branchOffsetOk, Bool.and_eq_true, decide_eq_true_eq] at h
  refine ⟨by rw [BitVec.toInt_ofInt]; simp only [Int.bmod]; omega, ?_⟩
  rw [BitVec.getLsbD, BitVec.toNat_ofInt]
  simp only [Nat.testBit, Nat.shiftRight_zero, Nat.one_and_eq_mod_two, bne_eq_false_iff_eq]
  omega

theorem off21_toInt {o : Int} (h : jumpOffsetOk o = true) :
    (BitVec.ofInt 21 o).toInt = o ∧ (BitVec.ofInt 21 o).getLsbD 0 = false := by
  simp only [jumpOffsetOk, Bool.and_eq_true, decide_eq_true_eq] at h
  refine ⟨by rw [BitVec.toInt_ofInt]; simp only [Int.bmod]; omega, ?_⟩
  rw [BitVec.getLsbD, BitVec.toNat_ofInt]
  simp only [Nat.testBit, Nat.shiftRight_zero, Nat.one_and_eq_mod_two, bne_eq_false_iff_eq]
  omega

/-! ### The table -/

/-- Two rows differ in a bit both masks keep. -/
def Row.clash (a b : Row) : Bool := (a.pat ^^^ b.pat) &&& (a.mask &&& b.mask) != 0

theorem rows_clash : rows.Pairwise (fun a b => a.clash b = true) := by decide

theorem Row.not_both {a b : Row} (h : a.clash b = true) {w : Word} (ha : a.covers w = true) : b.covers w = false := by
  rcases hb : b.covers w with - | -
  · rfl
  · exfalso
    simp only [Row.covers, beq_iff_eq] at ha hb
    simp only [Row.clash, bne_iff_ne, ne_eq] at h
    apply h
    rw [← ha, ← hb]
    ext i hi
    simp only [BitVec.getElem_and, BitVec.getElem_xor]
    cases w[i] <;> cases a.mask[i] <;> cases b.mask[i] <;> simp

/-- In a table without overlaps the search finds the row that covers the word. -/
theorem find_of_covers {l : List Row} (hl : l.Pairwise (fun a b => a.clash b = true)) {r : Row} (hr : r ∈ l) {w : Word}
    (hw : r.covers w = true) : l.find? (fun x => x.covers w) = some r := by
  induction l with
  | nil => simp at hr
  | cons a l ih =>
    obtain ⟨ha, hl⟩ := List.pairwise_cons.mp hl
    rcases List.mem_cons.mp hr with rfl | hr
    · simp [List.find?, hw]
    · have : a.covers w = false := by
        rcases h : a.covers w with - | -
        · rfl
        · exact absurd (Row.not_both (ha r hr) h) (by simp [hw])
      simp [List.find?, this, ih hl hr]

/-- Decoding by the row that covers the word (R113). -/
theorem decode_of_covers {r : Row} (hr : r ∈ rows) {w : Word} (hw : r.covers w = true) (n : Nat) :
    decode n w = if (r.build w).registersBelow n then .ok (r.build w) else .error .registerIndex := by
  unfold decode
  rw [find_of_covers rows_clash hr hw]

/-- A decoded instruction is built by a row that covers the word, and its registers exist. -/
theorem decode_ok {n : Nat} {w : Word} {i : Instr} (h : decode n w = .ok i) :
    ∃ r ∈ rows, r.covers w = true ∧ r.build w = i ∧ i.registersBelow n = true := by
  unfold decode at h
  rcases hf : rows.find? (fun r => r.covers w) with - | r
  · rw [hf] at h; cases h
  · rw [hf] at h
    simp only at h
    split at h
    · cases h
      exact ⟨r, List.mem_of_find?_eq_some hf, by simpa using List.find?_some hf, rfl, ‹_›⟩
    · cases h

/-- The four bytes of a word read back as the word. -/
theorem wordOfBytes_bytesOfWord (w : Word) :
    wordOfBytes (w.extractLsb' 0 8) (w.extractLsb' 8 8) (w.extractLsb' 16 8) (w.extractLsb' 24 8) = w := by
  apply BitVec.eq_of_getLsbD_eq
  intro i hi
  unfold wordOfBytes
  change BitVec.getLsbD (w := 8 + 8 + 8 + 8) (BitVec.extractLsb' 24 8 w ++ BitVec.extractLsb' 16 8 w ++
    BitVec.extractLsb' 8 8 w ++ BitVec.extractLsb' 0 8 w) i = _
  simp only [BitVec.getLsbD_append, BitVec.getLsbD_extractLsb']
  interval_cases i <;> simp

end Sys2Proof
end

