-- ==== Sys2Proof/Laws/PerInstr.lean ====
section
/-! SUPPORT. The family EncodedRow: the encoding of a well-formed instruction is covered by its own row of R111, and
that row reads every operand back. -/

namespace Sys2Proof.Laws.EncodedRow

set_option Elab.async false

/-- The row of `i`'s mnemonic covers `encode i` and builds `i` from it (R111, R114). -/
def Statement (i : Instr) : Prop :=
  ∀ n, n ≤ 32 → i.wellFormed n = true →
    ∃ r ∈ rows, r.mnemonic = i.mnemonic ∧ r.covers (encode i) = true ∧ r.build (encode i) = i

/-- The row at index `k` serves. -/
theorem at_index {i : Instr} (k : Nat) (hk : k < rows.length) (hm : rows[k].mnemonic = i.mnemonic)
    (hc : encode i &&& rows[k].mask = rows[k].pat) (hb : rows[k].build (encode i) = i) :
    ∃ r ∈ rows, r.mnemonic = i.mnemonic ∧ r.covers (encode i) = true ∧ r.build (encode i) = i :=
  ⟨rows[k], List.getElem_mem hk, hm, by simp only [Row.covers, hc, beq_self_eq_true], hb⟩

/-- The checks of a well-formed instruction, as propositions (R114). -/
theorem parts {n : Nat} {i : Instr} (h : i.wellFormed n = true) :
    (∀ r ∈ i.registers, r < n) ∧ i.fieldsFit = true := by
  simpa [Instr.wellFormed, Instr.registersBelow] using h

theorem add (rd : Nat) (rs1 : Nat) (rs2 : Nat) : Statement (.add rd rs1 rs2) := by
  intro n hn h
  obtain ⟨hr, hf⟩ := parts h
  simp only [Instr.registers, List.forall_mem_cons] at hr
  obtain ⟨h1, h2, h3, -, -⟩ := fields_encodeR 0x00 (reg rs2) (reg rs1) 0 (reg rd) 0x33
  refine at_index 0 (by decide) rfl ((encodeR_and _ _ _ _ _ _).trans (by decide)) ?_
  show Instr.add (rdOf _) (rs1Of _) (rs2Of _) = _
  simp only [encode, h1, h2, h3, reg_toNat hr.1 hn, reg_toNat hr.2.1 hn, reg_toNat hr.2.2.1 hn]

theorem sub (rd : Nat) (rs1 : Nat) (rs2 : Nat) : Statement (.sub rd rs1 rs2) := by
  intro n hn h
  obtain ⟨hr, hf⟩ := parts h
  simp only [Instr.registers, List.forall_mem_cons] at hr
  obtain ⟨h1, h2, h3, -, -⟩ := fields_encodeR 0x20 (reg rs2) (reg rs1) 0 (reg rd) 0x33
  refine at_index 1 (by decide) rfl ((encodeR_and _ _ _ _ _ _).trans (by decide)) ?_
  show Instr.sub (rdOf _) (rs1Of _) (rs2Of _) = _
  simp only [encode, h1, h2, h3, reg_toNat hr.1 hn, reg_toNat hr.2.1 hn, reg_toNat hr.2.2.1 hn]

theorem sll (rd : Nat) (rs1 : Nat) (rs2 : Nat) : Statement (.sll rd rs1 rs2) := by
  intro n hn h
  obtain ⟨hr, hf⟩ := parts h
  simp only [Instr.registers, List.forall_mem_cons] at hr
  obtain ⟨h1, h2, h3, -, -⟩ := fields_encodeR 0x00 (reg rs2) (reg rs1) 1 (reg rd) 0x33
  refine at_index 2 (by decide) rfl ((encodeR_and _ _ _ _ _ _).trans (by decide)) ?_
  show Instr.sll (rdOf _) (rs1Of _) (rs2Of _) = _
  simp only [encode, h1, h2, h3, reg_toNat hr.1 hn, reg_toNat hr.2.1 hn, reg_toNat hr.2.2.1 hn]

theorem slt (rd : Nat) (rs1 : Nat) (rs2 : Nat) : Statement (.slt rd rs1 rs2) := by
  intro n hn h
  obtain ⟨hr, hf⟩ := parts h
  simp only [Instr.registers, List.forall_mem_cons] at hr
  obtain ⟨h1, h2, h3, -, -⟩ := fields_encodeR 0x00 (reg rs2) (reg rs1) 2 (reg rd) 0x33
  refine at_index 3 (by decide) rfl ((encodeR_and _ _ _ _ _ _).trans (by decide)) ?_
  show Instr.slt (rdOf _) (rs1Of _) (rs2Of _) = _
  simp only [encode, h1, h2, h3, reg_toNat hr.1 hn, reg_toNat hr.2.1 hn, reg_toNat hr.2.2.1 hn]

theorem sltu (rd : Nat) (rs1 : Nat) (rs2 : Nat) : Statement (.sltu rd rs1 rs2) := by
  intro n hn h
  obtain ⟨hr, hf⟩ := parts h
  simp only [Instr.registers, List.forall_mem_cons] at hr
  obtain ⟨h1, h2, h3, -, -⟩ := fields_encodeR 0x00 (reg rs2) (reg rs1) 3 (reg rd) 0x33
  refine at_index 4 (by decide) rfl ((encodeR_and _ _ _ _ _ _).trans (by decide)) ?_
  show Instr.sltu (rdOf _) (rs1Of _) (rs2Of _) = _
  simp only [encode, h1, h2, h3, reg_toNat hr.1 hn, reg_toNat hr.2.1 hn, reg_toNat hr.2.2.1 hn]

theorem xor (rd : Nat) (rs1 : Nat) (rs2 : Nat) : Statement (.xor rd rs1 rs2) := by
  intro n hn h
  obtain ⟨hr, hf⟩ := parts h
  simp only [Instr.registers, List.forall_mem_cons] at hr
  obtain ⟨h1, h2, h3, -, -⟩ := fields_encodeR 0x00 (reg rs2) (reg rs1) 4 (reg rd) 0x33
  refine at_index 5 (by decide) rfl ((encodeR_and _ _ _ _ _ _).trans (by decide)) ?_
  show Instr.xor (rdOf _) (rs1Of _) (rs2Of _) = _
  simp only [encode, h1, h2, h3, reg_toNat hr.1 hn, reg_toNat hr.2.1 hn, reg_toNat hr.2.2.1 hn]

theorem srl (rd : Nat) (rs1 : Nat) (rs2 : Nat) : Statement (.srl rd rs1 rs2) := by
  intro n hn h
  obtain ⟨hr, hf⟩ := parts h
  simp only [Instr.registers, List.forall_mem_cons] at hr
  obtain ⟨h1, h2, h3, -, -⟩ := fields_encodeR 0x00 (reg rs2) (reg rs1) 5 (reg rd) 0x33
  refine at_index 6 (by decide) rfl ((encodeR_and _ _ _ _ _ _).trans (by decide)) ?_
  show Instr.srl (rdOf _) (rs1Of _) (rs2Of _) = _
  simp only [encode, h1, h2, h3, reg_toNat hr.1 hn, reg_toNat hr.2.1 hn, reg_toNat hr.2.2.1 hn]

theorem sra (rd : Nat) (rs1 : Nat) (rs2 : Nat) : Statement (.sra rd rs1 rs2) := by
  intro n hn h
  obtain ⟨hr, hf⟩ := parts h
  simp only [Instr.registers, List.forall_mem_cons] at hr
  obtain ⟨h1, h2, h3, -, -⟩ := fields_encodeR 0x20 (reg rs2) (reg rs1) 5 (reg rd) 0x33
  refine at_index 7 (by decide) rfl ((encodeR_and _ _ _ _ _ _).trans (by decide)) ?_
  show Instr.sra (rdOf _) (rs1Of _) (rs2Of _) = _
  simp only [encode, h1, h2, h3, reg_toNat hr.1 hn, reg_toNat hr.2.1 hn, reg_toNat hr.2.2.1 hn]

theorem or (rd : Nat) (rs1 : Nat) (rs2 : Nat) : Statement (.or rd rs1 rs2) := by
  intro n hn h
  obtain ⟨hr, hf⟩ := parts h
  simp only [Instr.registers, List.forall_mem_cons] at hr
  obtain ⟨h1, h2, h3, -, -⟩ := fields_encodeR 0x00 (reg rs2) (reg rs1) 6 (reg rd) 0x33
  refine at_index 8 (by decide) rfl ((encodeR_and _ _ _ _ _ _).trans (by decide)) ?_
  show Instr.or (rdOf _) (rs1Of _) (rs2Of _) = _
  simp only [encode, h1, h2, h3, reg_toNat hr.1 hn, reg_toNat hr.2.1 hn, reg_toNat hr.2.2.1 hn]

theorem and (rd : Nat) (rs1 : Nat) (rs2 : Nat) : Statement (.and rd rs1 rs2) := by
  intro n hn h
  obtain ⟨hr, hf⟩ := parts h
  simp only [Instr.registers, List.forall_mem_cons] at hr
  obtain ⟨h1, h2, h3, -, -⟩ := fields_encodeR 0x00 (reg rs2) (reg rs1) 7 (reg rd) 0x33
  refine at_index 9 (by decide) rfl ((encodeR_and _ _ _ _ _ _).trans (by decide)) ?_
  show Instr.and (rdOf _) (rs1Of _) (rs2Of _) = _
  simp only [encode, h1, h2, h3, reg_toNat hr.1 hn, reg_toNat hr.2.1 hn, reg_toNat hr.2.2.1 hn]

theorem mul (rd : Nat) (rs1 : Nat) (rs2 : Nat) : Statement (.mul rd rs1 rs2) := by
  intro n hn h
  obtain ⟨hr, hf⟩ := parts h
  simp only [Instr.registers, List.forall_mem_cons] at hr
  obtain ⟨h1, h2, h3, -, -⟩ := fields_encodeR 0x01 (reg rs2) (reg rs1) 0 (reg rd) 0x33
  refine at_index 10 (by decide) rfl ((encodeR_and _ _ _ _ _ _).trans (by decide)) ?_
  show Instr.mul (rdOf _) (rs1Of _) (rs2Of _) = _
  simp only [encode, h1, h2, h3, reg_toNat hr.1 hn, reg_toNat hr.2.1 hn, reg_toNat hr.2.2.1 hn]

theorem div (rd : Nat) (rs1 : Nat) (rs2 : Nat) : Statement (.div rd rs1 rs2) := by
  intro n hn h
  obtain ⟨hr, hf⟩ := parts h
  simp only [Instr.registers, List.forall_mem_cons] at hr
  obtain ⟨h1, h2, h3, -, -⟩ := fields_encodeR 0x01 (reg rs2) (reg rs1) 4 (reg rd) 0x33
  refine at_index 11 (by decide) rfl ((encodeR_and _ _ _ _ _ _).trans (by decide)) ?_
  show Instr.div (rdOf _) (rs1Of _) (rs2Of _) = _
  simp only [encode, h1, h2, h3, reg_toNat hr.1 hn, reg_toNat hr.2.1 hn, reg_toNat hr.2.2.1 hn]

theorem divu (rd : Nat) (rs1 : Nat) (rs2 : Nat) : Statement (.divu rd rs1 rs2) := by
  intro n hn h
  obtain ⟨hr, hf⟩ := parts h
  simp only [Instr.registers, List.forall_mem_cons] at hr
  obtain ⟨h1, h2, h3, -, -⟩ := fields_encodeR 0x01 (reg rs2) (reg rs1) 5 (reg rd) 0x33
  refine at_index 12 (by decide) rfl ((encodeR_and _ _ _ _ _ _).trans (by decide)) ?_
  show Instr.divu (rdOf _) (rs1Of _) (rs2Of _) = _
  simp only [encode, h1, h2, h3, reg_toNat hr.1 hn, reg_toNat hr.2.1 hn, reg_toNat hr.2.2.1 hn]

theorem rem (rd : Nat) (rs1 : Nat) (rs2 : Nat) : Statement (.rem rd rs1 rs2) := by
  intro n hn h
  obtain ⟨hr, hf⟩ := parts h
  simp only [Instr.registers, List.forall_mem_cons] at hr
  obtain ⟨h1, h2, h3, -, -⟩ := fields_encodeR 0x01 (reg rs2) (reg rs1) 6 (reg rd) 0x33
  refine at_index 13 (by decide) rfl ((encodeR_and _ _ _ _ _ _).trans (by decide)) ?_
  show Instr.rem (rdOf _) (rs1Of _) (rs2Of _) = _
  simp only [encode, h1, h2, h3, reg_toNat hr.1 hn, reg_toNat hr.2.1 hn, reg_toNat hr.2.2.1 hn]

theorem remu (rd : Nat) (rs1 : Nat) (rs2 : Nat) : Statement (.remu rd rs1 rs2) := by
  intro n hn h
  obtain ⟨hr, hf⟩ := parts h
  simp only [Instr.registers, List.forall_mem_cons] at hr
  obtain ⟨h1, h2, h3, -, -⟩ := fields_encodeR 0x01 (reg rs2) (reg rs1) 7 (reg rd) 0x33
  refine at_index 14 (by decide) rfl ((encodeR_and _ _ _ _ _ _).trans (by decide)) ?_
  show Instr.remu (rdOf _) (rs1Of _) (rs2Of _) = _
  simp only [encode, h1, h2, h3, reg_toNat hr.1 hn, reg_toNat hr.2.1 hn, reg_toNat hr.2.2.1 hn]

theorem addi (rd : Nat) (rs1 : Nat) (imm : Int) : Statement (.addi rd rs1 imm) := by
  intro n hn h
  obtain ⟨hr, hf⟩ := parts h
  simp only [Instr.registers, List.forall_mem_cons] at hr
  obtain ⟨h1, h2, h3⟩ := fields_encodeI (BitVec.ofInt 12 imm) (reg rs1) 0 (reg rd) 0x13
  refine at_index 15 (by decide) rfl ((encodeI_and _ _ _ _ _).trans (by decide)) ?_
  show Instr.addi (rdOf _) (rs1Of _) (immI _) = _
  simp only [encode, h1, h2, h3, reg_toNat hr.1 hn, reg_toNat hr.2.1 hn, imm12_toInt hf]

theorem slti (rd : Nat) (rs1 : Nat) (imm : Int) : Statement (.slti rd rs1 imm) := by
  intro n hn h
  obtain ⟨hr, hf⟩ := parts h
  simp only [Instr.registers, List.forall_mem_cons] at hr
  obtain ⟨h1, h2, h3⟩ := fields_encodeI (BitVec.ofInt 12 imm) (reg rs1) 2 (reg rd) 0x13
  refine at_index 16 (by decide) rfl ((encodeI_and _ _ _ _ _).trans (by decide)) ?_
  show Instr.slti (rdOf _) (rs1Of _) (immI _) = _
  simp only [encode, h1, h2, h3, reg_toNat hr.1 hn, reg_toNat hr.2.1 hn, imm12_toInt hf]

theorem sltiu (rd : Nat) (rs1 : Nat) (imm : Int) : Statement (.sltiu rd rs1 imm) := by
  intro n hn h
  obtain ⟨hr, hf⟩ := parts h
  simp only [Instr.registers, List.forall_mem_cons] at hr
  obtain ⟨h1, h2, h3⟩ := fields_encodeI (BitVec.ofInt 12 imm) (reg rs1) 3 (reg rd) 0x13
  refine at_index 17 (by decide) rfl ((encodeI_and _ _ _ _ _).trans (by decide)) ?_
  show Instr.sltiu (rdOf _) (rs1Of _) (immI _) = _
  simp only [encode, h1, h2, h3, reg_toNat hr.1 hn, reg_toNat hr.2.1 hn, imm12_toInt hf]

theorem xori (rd : Nat) (rs1 : Nat) (imm : Int) : Statement (.xori rd rs1 imm) := by
  intro n hn h
  obtain ⟨hr, hf⟩ := parts h
  simp only [Instr.registers, List.forall_mem_cons] at hr
  obtain ⟨h1, h2, h3⟩ := fields_encodeI (BitVec.ofInt 12 imm) (reg rs1) 4 (reg rd) 0x13
  refine at_index 18 (by decide) rfl ((encodeI_and _ _ _ _ _).trans (by decide)) ?_
  show Instr.xori (rdOf _) (rs1Of _) (immI _) = _
  simp only [encode, h1, h2, h3, reg_toNat hr.1 hn, reg_toNat hr.2.1 hn, imm12_toInt hf]

theorem ori (rd : Nat) (rs1 : Nat) (imm : Int) : Statement (.ori rd rs1 imm) := by
  intro n hn h
  obtain ⟨hr, hf⟩ := parts h
  simp only [Instr.registers, List.forall_mem_cons] at hr
  obtain ⟨h1, h2, h3⟩ := fields_encodeI (BitVec.ofInt 12 imm) (reg rs1) 6 (reg rd) 0x13
  refine at_index 19 (by decide) rfl ((encodeI_and _ _ _ _ _).trans (by decide)) ?_
  show Instr.ori (rdOf _) (rs1Of _) (immI _) = _
  simp only [encode, h1, h2, h3, reg_toNat hr.1 hn, reg_toNat hr.2.1 hn, imm12_toInt hf]

theorem andi (rd : Nat) (rs1 : Nat) (imm : Int) : Statement (.andi rd rs1 imm) := by
  intro n hn h
  obtain ⟨hr, hf⟩ := parts h
  simp only [Instr.registers, List.forall_mem_cons] at hr
  obtain ⟨h1, h2, h3⟩ := fields_encodeI (BitVec.ofInt 12 imm) (reg rs1) 7 (reg rd) 0x13
  refine at_index 20 (by decide) rfl ((encodeI_and _ _ _ _ _).trans (by decide)) ?_
  show Instr.andi (rdOf _) (rs1Of _) (immI _) = _
  simp only [encode, h1, h2, h3, reg_toNat hr.1 hn, reg_toNat hr.2.1 hn, imm12_toInt hf]

theorem slli (rd : Nat) (rs1 : Nat) (shamt : Nat) : Statement (.slli rd rs1 shamt) := by
  intro n hn h
  obtain ⟨hr, hf⟩ := parts h
  simp only [Instr.registers, List.forall_mem_cons] at hr
  obtain ⟨h1, h2, -, h4, -⟩ := fields_encodeR 0x00 (BitVec.ofNat 5 shamt) (reg rs1) 1 (reg rd) 0x13
  refine at_index 21 (by decide) rfl ((encodeR_and _ _ _ _ _ _).trans (by decide)) ?_
  show Instr.slli (rdOf _) (rs1Of _) (shamtOf _) = _
  simp only [encode, h1, h2, h4, reg_toNat hr.1 hn, reg_toNat hr.2.1 hn, field5_toNat (of_decide_eq_true hf)]

theorem srli (rd : Nat) (rs1 : Nat) (shamt : Nat) : Statement (.srli rd rs1 shamt) := by
  intro n hn h
  obtain ⟨hr, hf⟩ := parts h
  simp only [Instr.registers, List.forall_mem_cons] at hr
  obtain ⟨h1, h2, -, h4, -⟩ := fields_encodeR 0x00 (BitVec.ofNat 5 shamt) (reg rs1) 5 (reg rd) 0x13
  refine at_index 22 (by decide) rfl ((encodeR_and _ _ _ _ _ _).trans (by decide)) ?_
  show Instr.srli (rdOf _) (rs1Of _) (shamtOf _) = _
  simp only [encode, h1, h2, h4, reg_toNat hr.1 hn, reg_toNat hr.2.1 hn, field5_toNat (of_decide_eq_true hf)]

theorem srai (rd : Nat) (rs1 : Nat) (shamt : Nat) : Statement (.srai rd rs1 shamt) := by
  intro n hn h
  obtain ⟨hr, hf⟩ := parts h
  simp only [Instr.registers, List.forall_mem_cons] at hr
  obtain ⟨h1, h2, -, h4, -⟩ := fields_encodeR 0x20 (BitVec.ofNat 5 shamt) (reg rs1) 5 (reg rd) 0x13
  refine at_index 23 (by decide) rfl ((encodeR_and _ _ _ _ _ _).trans (by decide)) ?_
  show Instr.srai (rdOf _) (rs1Of _) (shamtOf _) = _
  simp only [encode, h1, h2, h4, reg_toNat hr.1 hn, reg_toNat hr.2.1 hn, field5_toNat (of_decide_eq_true hf)]

theorem lui (rd : Nat) (imm20 : Nat) : Statement (.lui rd imm20) := by
  intro n hn h
  obtain ⟨hr, hf⟩ := parts h
  simp only [Instr.registers, List.forall_mem_cons] at hr
  obtain ⟨h1, h2⟩ := fields_encodeU (BitVec.ofNat 20 imm20) (reg rd) 0x37
  refine at_index 24 (by decide) rfl ((encodeU_and _ _ _).trans (by decide)) ?_
  show Instr.lui (rdOf _) (imm20Of _) = _
  simp only [encode, h1, h2, reg_toNat hr.1 hn, field20_toNat (of_decide_eq_true hf)]

theorem auipc (rd : Nat) (imm20 : Nat) : Statement (.auipc rd imm20) := by
  intro n hn h
  obtain ⟨hr, hf⟩ := parts h
  simp only [Instr.registers, List.forall_mem_cons] at hr
  obtain ⟨h1, h2⟩ := fields_encodeU (BitVec.ofNat 20 imm20) (reg rd) 0x17
  refine at_index 25 (by decide) rfl ((encodeU_and _ _ _).trans (by decide)) ?_
  show Instr.auipc (rdOf _) (imm20Of _) = _
  simp only [encode, h1, h2, reg_toNat hr.1 hn, field20_toNat (of_decide_eq_true hf)]

theorem lb (rd : Nat) (rs1 : Nat) (imm : Int) : Statement (.lb rd rs1 imm) := by
  intro n hn h
  obtain ⟨hr, hf⟩ := parts h
  simp only [Instr.registers, List.forall_mem_cons] at hr
  obtain ⟨h1, h2, h3⟩ := fields_encodeI (BitVec.ofInt 12 imm) (reg rs1) 0 (reg rd) 0x03
  refine at_index 26 (by decide) rfl ((encodeI_and _ _ _ _ _).trans (by decide)) ?_
  show Instr.lb (rdOf _) (rs1Of _) (immI _) = _
  simp only [encode, h1, h2, h3, reg_toNat hr.1 hn, reg_toNat hr.2.1 hn, imm12_toInt hf]

theorem lh (rd : Nat) (rs1 : Nat) (imm : Int) : Statement (.lh rd rs1 imm) := by
  intro n hn h
  obtain ⟨hr, hf⟩ := parts h
  simp only [Instr.registers, List.forall_mem_cons] at hr
  obtain ⟨h1, h2, h3⟩ := fields_encodeI (BitVec.ofInt 12 imm) (reg rs1) 1 (reg rd) 0x03
  refine at_index 27 (by decide) rfl ((encodeI_and _ _ _ _ _).trans (by decide)) ?_
  show Instr.lh (rdOf _) (rs1Of _) (immI _) = _
  simp only [encode, h1, h2, h3, reg_toNat hr.1 hn, reg_toNat hr.2.1 hn, imm12_toInt hf]

theorem lw (rd : Nat) (rs1 : Nat) (imm : Int) : Statement (.lw rd rs1 imm) := by
  intro n hn h
  obtain ⟨hr, hf⟩ := parts h
  simp only [Instr.registers, List.forall_mem_cons] at hr
  obtain ⟨h1, h2, h3⟩ := fields_encodeI (BitVec.ofInt 12 imm) (reg rs1) 2 (reg rd) 0x03
  refine at_index 28 (by decide) rfl ((encodeI_and _ _ _ _ _).trans (by decide)) ?_
  show Instr.lw (rdOf _) (rs1Of _) (immI _) = _
  simp only [encode, h1, h2, h3, reg_toNat hr.1 hn, reg_toNat hr.2.1 hn, imm12_toInt hf]

theorem lbu (rd : Nat) (rs1 : Nat) (imm : Int) : Statement (.lbu rd rs1 imm) := by
  intro n hn h
  obtain ⟨hr, hf⟩ := parts h
  simp only [Instr.registers, List.forall_mem_cons] at hr
  obtain ⟨h1, h2, h3⟩ := fields_encodeI (BitVec.ofInt 12 imm) (reg rs1) 4 (reg rd) 0x03
  refine at_index 29 (by decide) rfl ((encodeI_and _ _ _ _ _).trans (by decide)) ?_
  show Instr.lbu (rdOf _) (rs1Of _) (immI _) = _
  simp only [encode, h1, h2, h3, reg_toNat hr.1 hn, reg_toNat hr.2.1 hn, imm12_toInt hf]

theorem lhu (rd : Nat) (rs1 : Nat) (imm : Int) : Statement (.lhu rd rs1 imm) := by
  intro n hn h
  obtain ⟨hr, hf⟩ := parts h
  simp only [Instr.registers, List.forall_mem_cons] at hr
  obtain ⟨h1, h2, h3⟩ := fields_encodeI (BitVec.ofInt 12 imm) (reg rs1) 5 (reg rd) 0x03
  refine at_index 30 (by decide) rfl ((encodeI_and _ _ _ _ _).trans (by decide)) ?_
  show Instr.lhu (rdOf _) (rs1Of _) (immI _) = _
  simp only [encode, h1, h2, h3, reg_toNat hr.1 hn, reg_toNat hr.2.1 hn, imm12_toInt hf]

theorem sb (rs1 : Nat) (rs2 : Nat) (imm : Int) : Statement (.sb rs1 rs2 imm) := by
  intro n hn h
  obtain ⟨hr, hf⟩ := parts h
  simp only [Instr.registers, List.forall_mem_cons] at hr
  obtain ⟨h1, h2, h3⟩ := fields_encodeS (BitVec.ofInt 12 imm) (reg rs2) (reg rs1) 0 0x23
  refine at_index 31 (by decide) rfl ((encodeS_and _ _ _ _ _).trans (by decide)) ?_
  show Instr.sb (rs1Of _) (rs2Of _) (immS _) = _
  simp only [encode, h1, h2, h3, reg_toNat hr.1 hn, reg_toNat hr.2.1 hn, imm12_toInt hf]

theorem sh (rs1 : Nat) (rs2 : Nat) (imm : Int) : Statement (.sh rs1 rs2 imm) := by
  intro n hn h
  obtain ⟨hr, hf⟩ := parts h
  simp only [Instr.registers, List.forall_mem_cons] at hr
  obtain ⟨h1, h2, h3⟩ := fields_encodeS (BitVec.ofInt 12 imm) (reg rs2) (reg rs1) 1 0x23
  refine at_index 32 (by decide) rfl ((encodeS_and _ _ _ _ _).trans (by decide)) ?_
  show Instr.sh (rs1Of _) (rs2Of _) (immS _) = _
  simp only [encode, h1, h2, h3, reg_toNat hr.1 hn, reg_toNat hr.2.1 hn, imm12_toInt hf]

theorem sw (rs1 : Nat) (rs2 : Nat) (imm : Int) : Statement (.sw rs1 rs2 imm) := by
  intro n hn h
  obtain ⟨hr, hf⟩ := parts h
  simp only [Instr.registers, List.forall_mem_cons] at hr
  obtain ⟨h1, h2, h3⟩ := fields_encodeS (BitVec.ofInt 12 imm) (reg rs2) (reg rs1) 2 0x23
  refine at_index 33 (by decide) rfl ((encodeS_and _ _ _ _ _).trans (by decide)) ?_
  show Instr.sw (rs1Of _) (rs2Of _) (immS _) = _
  simp only [encode, h1, h2, h3, reg_toNat hr.1 hn, reg_toNat hr.2.1 hn, imm12_toInt hf]

theorem beq (rs1 : Nat) (rs2 : Nat) (offset : Int) : Statement (.beq rs1 rs2 offset) := by
  intro n hn h
  obtain ⟨hr, hf⟩ := parts h
  simp only [Instr.registers, List.forall_mem_cons] at hr
  obtain ⟨ho, ho0⟩ := off13_toInt hf
  obtain ⟨h1, h2, h3⟩ := fields_encodeB (BitVec.ofInt 13 offset) ho0 (reg rs2) (reg rs1) 0 0x63
  refine at_index 34 (by decide) rfl ((encodeB_and _ _ _ _ _).trans (by decide)) ?_
  show Instr.beq (rs1Of _) (rs2Of _) (immB _) = _
  simp only [encode, h1, h2, h3, reg_toNat hr.1 hn, reg_toNat hr.2.1 hn, ho]

theorem bne (rs1 : Nat) (rs2 : Nat) (offset : Int) : Statement (.bne rs1 rs2 offset) := by
  intro n hn h
  obtain ⟨hr, hf⟩ := parts h
  simp only [Instr.registers, List.forall_mem_cons] at hr
  obtain ⟨ho, ho0⟩ := off13_toInt hf
  obtain ⟨h1, h2, h3⟩ := fields_encodeB (BitVec.ofInt 13 offset) ho0 (reg rs2) (reg rs1) 1 0x63
  refine at_index 35 (by decide) rfl ((encodeB_and _ _ _ _ _).trans (by decide)) ?_
  show Instr.bne (rs1Of _) (rs2Of _) (immB _) = _
  simp only [encode, h1, h2, h3, reg_toNat hr.1 hn, reg_toNat hr.2.1 hn, ho]

theorem blt (rs1 : Nat) (rs2 : Nat) (offset : Int) : Statement (.blt rs1 rs2 offset) := by
  intro n hn h
  obtain ⟨hr, hf⟩ := parts h
  simp only [Instr.registers, List.forall_mem_cons] at hr
  obtain ⟨ho, ho0⟩ := off13_toInt hf
  obtain ⟨h1, h2, h3⟩ := fields_encodeB (BitVec.ofInt 13 offset) ho0 (reg rs2) (reg rs1) 4 0x63
  refine at_index 36 (by decide) rfl ((encodeB_and _ _ _ _ _).trans (by decide)) ?_
  show Instr.blt (rs1Of _) (rs2Of _) (immB _) = _
  simp only [encode, h1, h2, h3, reg_toNat hr.1 hn, reg_toNat hr.2.1 hn, ho]

theorem bge (rs1 : Nat) (rs2 : Nat) (offset : Int) : Statement (.bge rs1 rs2 offset) := by
  intro n hn h
  obtain ⟨hr, hf⟩ := parts h
  simp only [Instr.registers, List.forall_mem_cons] at hr
  obtain ⟨ho, ho0⟩ := off13_toInt hf
  obtain ⟨h1, h2, h3⟩ := fields_encodeB (BitVec.ofInt 13 offset) ho0 (reg rs2) (reg rs1) 5 0x63
  refine at_index 37 (by decide) rfl ((encodeB_and _ _ _ _ _).trans (by decide)) ?_
  show Instr.bge (rs1Of _) (rs2Of _) (immB _) = _
  simp only [encode, h1, h2, h3, reg_toNat hr.1 hn, reg_toNat hr.2.1 hn, ho]

theorem bltu (rs1 : Nat) (rs2 : Nat) (offset : Int) : Statement (.bltu rs1 rs2 offset) := by
  intro n hn h
  obtain ⟨hr, hf⟩ := parts h
  simp only [Instr.registers, List.forall_mem_cons] at hr
  obtain ⟨ho, ho0⟩ := off13_toInt hf
  obtain ⟨h1, h2, h3⟩ := fields_encodeB (BitVec.ofInt 13 offset) ho0 (reg rs2) (reg rs1) 6 0x63
  refine at_index 38 (by decide) rfl ((encodeB_and _ _ _ _ _).trans (by decide)) ?_
  show Instr.bltu (rs1Of _) (rs2Of _) (immB _) = _
  simp only [encode, h1, h2, h3, reg_toNat hr.1 hn, reg_toNat hr.2.1 hn, ho]

theorem bgeu (rs1 : Nat) (rs2 : Nat) (offset : Int) : Statement (.bgeu rs1 rs2 offset) := by
  intro n hn h
  obtain ⟨hr, hf⟩ := parts h
  simp only [Instr.registers, List.forall_mem_cons] at hr
  obtain ⟨ho, ho0⟩ := off13_toInt hf
  obtain ⟨h1, h2, h3⟩ := fields_encodeB (BitVec.ofInt 13 offset) ho0 (reg rs2) (reg rs1) 7 0x63
  refine at_index 39 (by decide) rfl ((encodeB_and _ _ _ _ _).trans (by decide)) ?_
  show Instr.bgeu (rs1Of _) (rs2Of _) (immB _) = _
  simp only [encode, h1, h2, h3, reg_toNat hr.1 hn, reg_toNat hr.2.1 hn, ho]

theorem jal (rd : Nat) (offset : Int) : Statement (.jal rd offset) := by
  intro n hn h
  obtain ⟨hr, hf⟩ := parts h
  simp only [Instr.registers, List.forall_mem_cons] at hr
  obtain ⟨ho, ho0⟩ := off21_toInt hf
  obtain ⟨h1, h2⟩ := fields_encodeJ (BitVec.ofInt 21 offset) ho0 (reg rd) 0x6F
  refine at_index 40 (by decide) rfl ((encodeJ_and _ _ _).trans (by decide)) ?_
  show Instr.jal (rdOf _) (immJ _) = _
  simp only [encode, h1, h2, reg_toNat hr.1 hn, ho]

theorem jalr (rd : Nat) (rs1 : Nat) (imm : Int) : Statement (.jalr rd rs1 imm) := by
  intro n hn h
  obtain ⟨hr, hf⟩ := parts h
  simp only [Instr.registers, List.forall_mem_cons] at hr
  obtain ⟨h1, h2, h3⟩ := fields_encodeI (BitVec.ofInt 12 imm) (reg rs1) 0 (reg rd) 0x67
  refine at_index 41 (by decide) rfl ((encodeI_and _ _ _ _ _).trans (by decide)) ?_
  show Instr.jalr (rdOf _) (rs1Of _) (immI _) = _
  simp only [encode, h1, h2, h3, reg_toNat hr.1 hn, reg_toNat hr.2.1 hn, imm12_toInt hf]

theorem ecall : Statement (.ecall) := by
  intro n hn h
  exact at_index 42 (by decide) rfl (by decide) rfl

theorem ebreak : Statement (.ebreak) := by
  intro n hn h
  exact at_index 43 (by decide) rfl (by decide) rfl

theorem halt : Statement (.halt) := by
  intro n hn h
  exact at_index 44 (by decide) rfl (by decide) rfl

theorem debug (rs1 : Nat) : Statement (.debug rs1) := by
  intro n hn h
  obtain ⟨hr, hf⟩ := parts h
  simp only [Instr.registers, List.forall_mem_cons] at hr
  obtain ⟨-, h2, -⟩ := fields_encodeI 3 (reg rs1) 0 0 0x73
  refine at_index 45 (by decide) rfl ((encodeI_and_rs1Only _ _ _ _ _).trans (by decide)) ?_
  show Instr.debug (rs1Of _) = _
  simp only [encode, h2, reg_toNat hr.1 hn]

theorem fadd (rd : Nat) (rs1 : Nat) (rs2 : Nat) : Statement (.fadd rd rs1 rs2) := by
  intro n hn h
  obtain ⟨hr, hf⟩ := parts h
  simp only [Instr.registers, List.forall_mem_cons] at hr
  obtain ⟨h1, h2, h3, -, -⟩ := fields_encodeR 0x00 (reg rs2) (reg rs1) 0 (reg rd) 0x0B
  refine at_index 46 (by decide) rfl ((encodeR_and _ _ _ _ _ _).trans (by decide)) ?_
  show Instr.fadd (rdOf _) (rs1Of _) (rs2Of _) = _
  simp only [encode, h1, h2, h3, reg_toNat hr.1 hn, reg_toNat hr.2.1 hn, reg_toNat hr.2.2.1 hn]

theorem fsub (rd : Nat) (rs1 : Nat) (rs2 : Nat) : Statement (.fsub rd rs1 rs2) := by
  intro n hn h
  obtain ⟨hr, hf⟩ := parts h
  simp only [Instr.registers, List.forall_mem_cons] at hr
  obtain ⟨h1, h2, h3, -, -⟩ := fields_encodeR 0x00 (reg rs2) (reg rs1) 1 (reg rd) 0x0B
  refine at_index 47 (by decide) rfl ((encodeR_and _ _ _ _ _ _).trans (by decide)) ?_
  show Instr.fsub (rdOf _) (rs1Of _) (rs2Of _) = _
  simp only [encode, h1, h2, h3, reg_toNat hr.1 hn, reg_toNat hr.2.1 hn, reg_toNat hr.2.2.1 hn]

theorem fmul (rd : Nat) (rs1 : Nat) (rs2 : Nat) : Statement (.fmul rd rs1 rs2) := by
  intro n hn h
  obtain ⟨hr, hf⟩ := parts h
  simp only [Instr.registers, List.forall_mem_cons] at hr
  obtain ⟨h1, h2, h3, -, -⟩ := fields_encodeR 0x00 (reg rs2) (reg rs1) 2 (reg rd) 0x0B
  refine at_index 48 (by decide) rfl ((encodeR_and _ _ _ _ _ _).trans (by decide)) ?_
  show Instr.fmul (rdOf _) (rs1Of _) (rs2Of _) = _
  simp only [encode, h1, h2, h3, reg_toNat hr.1 hn, reg_toNat hr.2.1 hn, reg_toNat hr.2.2.1 hn]

theorem fneg (rd : Nat) (rs1 : Nat) : Statement (.fneg rd rs1) := by
  intro n hn h
  obtain ⟨hr, hf⟩ := parts h
  simp only [Instr.registers, List.forall_mem_cons] at hr
  obtain ⟨h1, h2, -, -, -⟩ := fields_encodeR 0x00 0 (reg rs1) 3 (reg rd) 0x0B
  refine at_index 49 (by decide) rfl ((encodeR_and_noRs2 _ _ _ _ _ _).trans (by decide)) ?_
  show Instr.fneg (rdOf _) (rs1Of _) = _
  simp only [encode, h1, h2, reg_toNat hr.1 hn, reg_toNat hr.2.1 hn]

theorem finv (rd : Nat) (rs1 : Nat) : Statement (.finv rd rs1) := by
  intro n hn h
  obtain ⟨hr, hf⟩ := parts h
  simp only [Instr.registers, List.forall_mem_cons] at hr
  obtain ⟨h1, h2, -, -, -⟩ := fields_encodeR 0x00 0 (reg rs1) 4 (reg rd) 0x0B
  refine at_index 50 (by decide) rfl ((encodeR_and_noRs2 _ _ _ _ _ _).trans (by decide)) ?_
  show Instr.finv (rdOf _) (rs1Of _) = _
  simp only [encode, h1, h2, reg_toNat hr.1 hn, reg_toNat hr.2.1 hn]

theorem read (rd : Nat) : Statement (.read rd) := by
  intro n hn h
  obtain ⟨hr, hf⟩ := parts h
  simp only [Instr.registers, List.forall_mem_cons] at hr
  obtain ⟨h1, -, -, -, -⟩ := fields_encodeR 0x00 0 0 0 (reg rd) 0x2B
  refine at_index 51 (by decide) rfl ((encodeR_and_rdOnly _ _ _ _ _ _).trans (by decide)) ?_
  show Instr.read (rdOf _) = _
  simp only [encode, h1, reg_toNat hr.1 hn]

theorem hint (rd : Nat) : Statement (.hint rd) := by
  intro n hn h
  obtain ⟨hr, hf⟩ := parts h
  simp only [Instr.registers, List.forall_mem_cons] at hr
  obtain ⟨h1, -, -, -, -⟩ := fields_encodeR 0x00 0 0 1 (reg rd) 0x2B
  refine at_index 52 (by decide) rfl ((encodeR_and_rdOnly _ _ _ _ _ _).trans (by decide)) ?_
  show Instr.hint (rdOf _) = _
  simp only [encode, h1, reg_toNat hr.1 hn]

theorem write (rs1 : Nat) : Statement (.write rs1) := by
  intro n hn h
  obtain ⟨hr, hf⟩ := parts h
  simp only [Instr.registers, List.forall_mem_cons] at hr
  obtain ⟨-, h2, -, -, -⟩ := fields_encodeR 0x00 0 (reg rs1) 2 0 0x2B
  refine at_index 53 (by decide) rfl ((encodeR_and_rs1Only _ _ _ _ _ _).trans (by decide)) ?_
  show Instr.write (rs1Of _) = _
  simp only [encode, h2, reg_toNat hr.1 hn]

theorem commit (rs1 : Nat) : Statement (.commit rs1) := by
  intro n hn h
  obtain ⟨hr, hf⟩ := parts h
  simp only [Instr.registers, List.forall_mem_cons] at hr
  obtain ⟨-, h2, -, -, -⟩ := fields_encodeR 0x00 0 (reg rs1) 3 0 0x2B
  refine at_index 54 (by decide) rfl ((encodeR_and_rs1Only _ _ _ _ _ _).trans (by decide)) ?_
  show Instr.commit (rs1Of _) = _
  simp only [encode, h2, reg_toNat hr.1 hn]

theorem assertEq (rs1 : Nat) (rs2 : Nat) : Statement (.assertEq rs1 rs2) := by
  intro n hn h
  obtain ⟨hr, hf⟩ := parts h
  simp only [Instr.registers, List.forall_mem_cons] at hr
  obtain ⟨-, h2, h3, -, -⟩ := fields_encodeR 0x00 (reg rs2) (reg rs1) 0 0 0x5B
  refine at_index 55 (by decide) rfl ((encodeR_and_noRd _ _ _ _ _ _).trans (by decide)) ?_
  show Instr.assertEq (rs1Of _) (rs2Of _) = _
  simp only [encode, h2, h3, reg_toNat hr.1 hn, reg_toNat hr.2.1 hn]

theorem assertNe (rs1 : Nat) (rs2 : Nat) : Statement (.assertNe rs1 rs2) := by
  intro n hn h
  obtain ⟨hr, hf⟩ := parts h
  simp only [Instr.registers, List.forall_mem_cons] at hr
  obtain ⟨-, h2, h3, -, -⟩ := fields_encodeR 0x00 (reg rs2) (reg rs1) 1 0 0x5B
  refine at_index 56 (by decide) rfl ((encodeR_and_noRd _ _ _ _ _ _).trans (by decide)) ?_
  show Instr.assertNe (rs1Of _) (rs2Of _) = _
  simp only [encode, h2, h3, reg_toNat hr.1 hn, reg_toNat hr.2.1 hn]

theorem assertZero (rs1 : Nat) : Statement (.assertZero rs1) := by
  intro n hn h
  obtain ⟨hr, hf⟩ := parts h
  simp only [Instr.registers, List.forall_mem_cons] at hr
  obtain ⟨-, h2, -, -, -⟩ := fields_encodeR 0x00 0 (reg rs1) 2 0 0x5B
  refine at_index 57 (by decide) rfl ((encodeR_and_rs1Only _ _ _ _ _ _).trans (by decide)) ?_
  show Instr.assertZero (rs1Of _) = _
  simp only [encode, h2, reg_toNat hr.1 hn]

theorem rangeCheck (rs1 : Nat) (bits : Nat) : Statement (.rangeCheck rs1 bits) := by
  intro n hn h
  obtain ⟨hr, hf⟩ := parts h
  simp only [Instr.registers, List.forall_mem_cons] at hr
  obtain ⟨-, h2, -, -, h5⟩ := fields_encodeR 0x00 (BitVec.ofNat 5 bits) (reg rs1) 3 0 0x5B
  refine at_index 58 (by decide) rfl ((encodeR_and_noRd _ _ _ _ _ _).trans (by decide)) ?_
  show Instr.rangeCheck (rs1Of _) (bitsOf _) = _
  simp only [encode, h2, h5, reg_toNat hr.1 hn, field5_toNat (of_decide_eq_true hf)]

end Sys2Proof.Laws.EncodedRow
end

