-- ==== Sys2Proof/Laws/Words.lean ====
section
/-! SUPPORT. The encoder's words as sums of their fields (R101 to R107). -/

namespace Sys2Proof.Machine

theorem append_toNat {n m : Nat} (x : BitVec n) (y : BitVec m) : (x ++ y).toNat = x.toNat * 2 ^ m + y.toNat := by
  rw [BitVec.toNat_append, ← Nat.shiftLeft_add_eq_or_of_lt y.isLt, Nat.shiftLeft_eq]

theorem slice_toNat {n : Nat} (x : BitVec n) (a k : Nat) : (x.extractLsb' a k).toNat = x.toNat / 2 ^ a % 2 ^ k := by
  rw [BitVec.extractLsb'_toNat, Nat.shiftRight_eq_div_pow]

theorem field_ofInt (k : Nat) (z : Int) : (BitVec.ofInt k z).toNat = (z % 2 ^ k).toNat := by
  rw [BitVec.toNat_ofInt]; norm_cast

theorem encodeR_eq (f7 rs2 rs1 f3 rd op : Nat) (h7 : f7 < 128) (h2 : rs2 < 32) (h1 : rs1 < 32) (h3 : f3 < 8)
    (hd : rd < 32) (ho : op < 128) :
    encodeR (BitVec.ofNat 7 f7) (BitVec.ofNat 5 rs2) (BitVec.ofNat 5 rs1) (BitVec.ofNat 3 f3) (BitVec.ofNat 5 rd)
      (BitVec.ofNat 7 op) = rWord op f3 f7 rd rs1 rs2 := by
  apply BitVec.eq_of_toNat_eq
  unfold encodeR rWord
  simp only [append_toNat, BitVec.toNat_ofNat]
  rw [Nat.mod_eq_of_lt h7, Nat.mod_eq_of_lt h2, Nat.mod_eq_of_lt h1, Nat.mod_eq_of_lt h3, Nat.mod_eq_of_lt hd,
    Nat.mod_eq_of_lt ho, Nat.mod_eq_of_lt (b := 2 ^ 32) (by omega)]
  omega

theorem encodeI_eq (imm : Int) (rs1 f3 rd op : Nat) (h1 : rs1 < 32) (h3 : f3 < 8) (hd : rd < 32) (ho : op < 128) :
    encodeI (BitVec.ofInt 12 imm) (BitVec.ofNat 5 rs1) (BitVec.ofNat 3 f3) (BitVec.ofNat 5 rd) (BitVec.ofNat 7 op) =
      iWord op f3 rd rs1 imm := by
  have hi : (imm % 2 ^ 12).toNat < 4096 := by omega
  apply BitVec.eq_of_toNat_eq
  unfold encodeI iWord
  simp only [append_toNat, BitVec.toNat_ofNat, field_ofInt]
  rw [Nat.mod_eq_of_lt h1, Nat.mod_eq_of_lt h3, Nat.mod_eq_of_lt hd, Nat.mod_eq_of_lt ho, Nat.mod_eq_of_lt (b := 2 ^ 32) (by omega)]
  omega

theorem encodeS_eq (imm : Int) (rs2 rs1 f3 op : Nat) (h2 : rs2 < 32) (h1 : rs1 < 32) (h3 : f3 < 8) (ho : op < 128) :
    encodeS (BitVec.ofInt 12 imm) (BitVec.ofNat 5 rs2) (BitVec.ofNat 5 rs1) (BitVec.ofNat 3 f3) (BitVec.ofNat 7 op) =
      sWord op f3 rs1 rs2 imm := by
  have hi : (imm % 2 ^ 12).toNat < 4096 := by omega
  apply BitVec.eq_of_toNat_eq
  unfold encodeS sWord
  simp only [append_toNat, slice_toNat, BitVec.toNat_ofNat, field_ofInt]
  rw [Nat.mod_eq_of_lt h1, Nat.mod_eq_of_lt h2, Nat.mod_eq_of_lt h3, Nat.mod_eq_of_lt ho, Nat.mod_eq_of_lt (b := 2 ^ 32) (by omega)]
  omega

theorem encodeB_eq (o : Int) (rs2 rs1 f3 op : Nat) (h2 : rs2 < 32) (h1 : rs1 < 32) (h3 : f3 < 8) (ho : op < 128) :
    encodeB (BitVec.ofInt 13 o) (BitVec.ofNat 5 rs2) (BitVec.ofNat 5 rs1) (BitVec.ofNat 3 f3) (BitVec.ofNat 7 op) =
      bWord op f3 rs1 rs2 o := by
  have hi : (o % 2 ^ 13).toNat < 8192 := by omega
  apply BitVec.eq_of_toNat_eq
  unfold encodeB bWord
  simp only [append_toNat, slice_toNat, pow_one, BitVec.toNat_ofNat, field_ofInt]
  rw [Nat.mod_eq_of_lt h1, Nat.mod_eq_of_lt h2, Nat.mod_eq_of_lt h3, Nat.mod_eq_of_lt ho, Nat.mod_eq_of_lt (b := 2 ^ 32) (by omega)]
  omega

theorem encodeU_eq (imm20 rd op : Nat) (hi : imm20 < 2 ^ 20) (hd : rd < 32) (ho : op < 128) :
    encodeU (BitVec.ofNat 20 imm20) (BitVec.ofNat 5 rd) (BitVec.ofNat 7 op) = uWord op rd imm20 := by
  apply BitVec.eq_of_toNat_eq
  unfold encodeU uWord
  simp only [append_toNat, BitVec.toNat_ofNat]
  rw [Nat.mod_eq_of_lt hi, Nat.mod_eq_of_lt hd, Nat.mod_eq_of_lt ho, Nat.mod_eq_of_lt (b := 2 ^ 32) (by omega)]
  omega

theorem encodeJ_eq (o : Int) (rd op : Nat) (hd : rd < 32) (ho : op < 128) :
    encodeJ (BitVec.ofInt 21 o) (BitVec.ofNat 5 rd) (BitVec.ofNat 7 op) = jWord op rd o := by
  have hi : (o % 2 ^ 21).toNat < 2097152 := by omega
  apply BitVec.eq_of_toNat_eq
  unfold encodeJ jWord
  simp only [append_toNat, slice_toNat, pow_one, BitVec.toNat_ofNat, field_ofInt]
  rw [Nat.mod_eq_of_lt hd, Nat.mod_eq_of_lt ho, Nat.mod_eq_of_lt (b := 2 ^ 32) (by omega)]
  omega

end Sys2Proof.Machine
end

