-- ==== Sys2Proof/Tests/Slice0.lean ====
section
/-! SUPPORT. Tests of the model against spec/95_test_vectors.md and the rules' own examples, and a witness for the
hypotheses of every statement. The expected values are the spec's. -/

namespace Sys2Proof.Machine.Tests

/-! ### Well-formedness: an ill-formed term for each check (R112, R114) -/

theorem test_wf_register : (Instr.add 16 1 2).wellFormed 16 = false ∧ (Instr.add 1 2 32).wellFormed 32 = false ∧
    (Instr.debug 16).wellFormed 16 = false := by decide

theorem test_wf_imm : (Instr.addi 1 2 2048).wellFormed 32 = false ∧ (Instr.lw 1 2 (-2049)).wellFormed 32 = false ∧
    (Instr.sb 1 2 2048).wellFormed 32 = false ∧ (Instr.addi 1 2 (-2048)).wellFormed 32 = true := by decide

theorem test_wf_branch : (Instr.beq 1 2 3).wellFormed 32 = false ∧ (Instr.beq 1 2 4096).wellFormed 32 = false ∧
    (Instr.bne 1 2 (-4098)).wellFormed 32 = false ∧ (Instr.beq 1 2 4094).wellFormed 32 = true := by decide

theorem test_wf_jump : (Instr.jal 1 1).wellFormed 32 = false ∧ (Instr.jal 1 1048576).wellFormed 32 = false ∧
    (Instr.jal 0 (-1048576)).wellFormed 32 = true := by decide

theorem test_wf_fields : (Instr.lui 1 0x100000).wellFormed 32 = false ∧ (Instr.slli 1 2 32).wellFormed 32 = false ∧
    (Instr.rangeCheck 1 32).wellFormed 32 = false ∧ (Instr.rangeCheck 15 31).wellFormed 16 = true := by decide

/-! ### Decoding and encoding: a word of spec/95 §2.1 for every constructor -/

/-- The word decodes to the instruction and the instruction encodes to the word. -/
def codes (p : Word × Instr) : Bool :=
  encode p.2 == p.1 && match decode 32 p.1 with
    | .ok i => i == p.2
    | .error _ => false

/-- The word is no instruction of a machine with `n` registers. -/
def illegal (n : Nat) (v : Word) : Bool :=
  match decode n v with
  | .ok _ => false
  | .error _ => true

theorem test_words_op : ([
  (0x003100B3, .add 1 2 3), (0x403100B3, .sub 1 2 3), (0x003110B3, .sll 1 2 3), (0x003120B3, .slt 1 2 3),
    (0x003130B3, .sltu 1 2 3), (0x003140B3, .xor 1 2 3), (0x003150B3, .srl 1 2 3), (0x403150B3, .sra 1 2 3),
    (0x003160B3, .or 1 2 3), (0x003170B3, .and 1 2 3)] : List (Word × Instr)).all codes = true := by decide

theorem test_words_muldiv : ([
  (0x023100B3, .mul 1 2 3), (0x023140B3, .div 1 2 3), (0x023150B3, .divu 1 2 3), (0x023160B3, .rem 1 2 3),
    (0x023170B3, .remu 1 2 3)] : List (Word × Instr)).all codes = true := by decide

theorem test_words_opImm : ([
  (0x7FF10093, .addi 1 2 2047), (0x80012093, .slti 1 2 (-2048)), (0xFFF13093, .sltiu 1 2 (-1)),
    (0xFFF14093, .xori 1 2 (-1)), (0xFFF16093, .ori 1 2 (-1)), (0xFFF17093, .andi 1 2 (-1)),
    (0x01F11093, .slli 1 2 31), (0x01F15093, .srli 1 2 31), (0x41F15093, .srai 1 2 31),
    (0xFFFFFFB7, .lui 31 1048575), (0xABCDE097, .auipc 1 703710)] : List (Word × Instr)).all codes = true := by decide

theorem test_words_memory : ([
  (0x00750283, .lb 5 10 7), (0xFFF11083, .lh 1 2 (-1)), (0xFFC12083, .lw 1 2 (-4)),
    (0xFFF14083, .lbu 1 2 (-1)), (0xFFF15083, .lhu 1 2 (-1)), (0xFE310E23, .sb 2 3 (-4)),
    (0xFE311E23, .sh 2 3 (-4)), (0xFE312E23, .sw 2 3 (-4))] : List (Word × Instr)).all codes = true := by decide

theorem test_words_control : ([
  (0x7E208FE3, .beq 1 2 4094), (0x80209063, .bne 1 2 (-4096)), (0xFE20CCE3, .blt 1 2 (-8)),
    (0xFE20DCE3, .bge 1 2 (-8)), (0xFE20ECE3, .bltu 1 2 (-8)), (0xFE20FCE3, .bgeu 1 2 (-8)),
    (0x8000006F, .jal 0 (-1048576)), (0xFFC100E7, .jalr 1 2 (-4))] : List (Word × Instr)).all codes = true := by decide

theorem test_words_system : ([
  (0x00000073, .ecall), (0x00100073, .ebreak), (0x00200073, .halt), (0x00350073, .debug 10)] :
      List (Word × Instr)).all codes = true := by decide

theorem test_words_field : ([
  (0x0031008B, .fadd 1 2 3), (0x0031108B, .fsub 1 2 3), (0x0031208B, .fmul 1 2 3), (0x0001308B, .fneg 1 2),
    (0x0001408B, .finv 1 2)] : List (Word × Instr)).all codes = true := by decide

theorem test_words_io : ([
  (0x0000052B, .read 10), (0x0000152B, .hint 10), (0x0005202B, .write 10), (0x0005302B, .commit 10)] :
      List (Word × Instr)).all codes = true := by decide

theorem test_words_assert : ([
  (0x0020805B, .assertEq 1 2), (0x0020905B, .assertNe 1 2), (0x0000A05B, .assertZero 1),
    (0x01F0B05B, .rangeCheck 1 31)] : List (Word × Instr)).all codes = true := by decide

theorem test_illegal_words : ([
  0x00000000, 0xFFFFFFFF, 0x00000001, 0x0000000F, 0x0000002F, 0x0000007B, 0x02001033, 0x02002033,
  0x02003033, 0x80000033, 0x00001073, 0x00002073, 0x00400073, 0x000000F3, 0x00008073, 0x00108073,
  0x00007003, 0x00003023, 0x00002063, 0x00001067, 0x0000500B, 0x4000100B, 0x0010300B, 0x0000402B,
  0x0010002B, 0x000000DB, 0x0000405B, 0x02001013, 0x42001013] : List Word).all (illegal 32) = true := by decide

theorem test_sixteen_registers : ([0x00208833, 0x01F080B3, 0x000008AB, 0x00380073] :
      List Word).all (illegal 16) = true ∧
    decode 16 0x01409093 = .ok (.slli 1 1 20) ∧ decode 16 0x0100B05B = .ok (.rangeCheck 1 16) ∧
    decode 16 0x000017B7 = .ok (.lui 15 1) := by decide

theorem test_bytes : decodeBytes 32 [0xB3, 0x00, 0x31, 0x00, 0x99] = .ok (.add 1 2 3, [0x99]) ∧
    decodeBytes 32 [0xB3, 0x00, 0x31] = .error .truncated ∧ decodeTableWord 32 0x003100B3 =
      some (.add 1 2 3) := by decide

/-! ### One step of every instruction -/

/-- The reference machine with the given registers set, the pc at `pc`, 16 code words, `data` and `bss` bytes of data. -/
def start (rs : List (Nat × Nat)) (pc : Nat) (data : List Byte) (bss : Nat) : State :=
  rs.foldl (fun s p => s.writeReg p.1 p.2)
    { State.reset with pc := pc, codeSize := 64, dataSize := data.length + bss, mem := placeBytes [] 0x10000 data }

/-- What a cycle leaves: register `r`, the pc and the status. -/
def left (o : Result) (r : Nat) : Option (Nat × Nat × Status) :=
  match o with
  | .next t => some (t.readReg r, t.pc, t.status)
  | _ => none

/-- The same for one instruction at 0x1000 with no data. -/
def after (i : Instr) (rs : List (Nat × Nat)) (r : Nat) : Option (Nat × Nat × Status) :=
  left (exec i (start rs 0x1000 [] 0)) r

/-- The access log and the bytes of memory from 0x10000 a cycle leaves. -/
def moved (o : Result) : Option (List Access × List Host.Cell) :=
  match o with
  | .next t => some (t.accessLog, t.mem)
  | _ => none

theorem test_ADD : after (.add 3 1 2) [(1, 0x3fffffff), (2, 1)] 3 = some (0x0, 0x1004, .running) ∧
    after (.add 3 1 2) [(1, 0x40000005)] 3 = some (0x5, 0x1004, .running) := by decide

theorem test_SUB : after (.sub 3 1 2) [(1, 3), (2, 5)] 3 = some (0x3FFFFFFE, 0x1004, .running) := by decide

theorem test_SLL : after (.sll 3 1 2) [(1, 1), (2, 0x1f)] 3 = some (0x2, 0x1004, .running) ∧
    after (.sll 3 1 2) [(1, 3), (2, 0x1d)] 3 = some (0x20000000, 0x1004, .running) := by decide

theorem test_SLT : after (.slt 3 1 2) [(1, 0x3fffffff)] 3 = some (0x1, 0x1004, .running) ∧
    after (.slt 3 1 2) [(1, 0x20000000), (2, 0x1fffffff)] 3 = some (0x1, 0x1004, .running) := by decide

theorem test_SLTU : after (.sltu 3 1 2) [(1, 0x3fffffff)] 3 = some (0x0, 0x1004, .running) ∧
    after (.sltu 3 1 2) [(2, 1)] 3 = some (0x1, 0x1004, .running) := by decide

theorem test_XOR : after (.xor 3 1 2) [(1, 0xc), (2, 0xa)] 3 = some (0x6, 0x1004, .running) := by decide

theorem test_SRL : after (.srl 3 1 2) [(1, 0x3fffffff), (2, 0x1d)] 3 = some (0x1, 0x1004, .running) ∧
    after (.srl 3 1 2) [(1, 0x3fffffff), (2, 0x1e)] 3 = some (0x3FFFFFFF, 0x1004, .running) := by decide

theorem test_SRA : after (.sra 3 1 2) [(1, 0x20000000), (2, 1)] 3 = some (0x30000000, 0x1004, .running) ∧
    after (.sra 3 1 2) [(1, 0x10000000), (2, 4)] 3 = some (0x1000000, 0x1004, .running) := by decide

theorem test_OR : after (.or 3 1 2) [(1, 0xc), (2, 0xa)] 3 = some (0xE, 0x1004, .running) := by decide

theorem test_AND : after (.and 3 1 2) [(1, 0xc), (2, 0xa)] 3 = some (0x8, 0x1004, .running) := by decide

theorem test_MUL : after (.mul 3 1 2) [(1, 0x3fffffff), (2, 0x3fffffff)] 3 = some (0x1, 0x1004, .running) ∧
    after (.mul 3 1 2) [(1, 0x40000003), (2, 5)] 3 = some (0xF, 0x1004, .running) := by decide

theorem test_DIV : after (.div 3 1 2) [(1, 0x3ffffff9), (2, 2)] 3 = some (0x3FFFFFFD, 0x1004, .running) ∧
    after (.div 3 1 2) [(1, 0x20000000), (2, 0x3fffffff)] 3 = some (0x20000000, 0x1004, .running) ∧
    after (.div 3 1 2) [(1, 5)] 3 = some (0, 0x1000, .trapped .divByZero) := by decide

theorem test_DIVU : after (.divu 3 1 2) [(1, 0x3ffffff9), (2, 2)] 3 = some (0x1FFFFFFC, 0x1004, .running) ∧
    after (.divu 3 1 2) [(1, 5)] 3 = some (0, 0x1000, .trapped .divByZero) := by decide

theorem test_REM : after (.rem 3 1 2) [(1, 0x3ffffff9), (2, 2)] 3 = some (0x3FFFFFFF, 0x1004, .running) ∧
    after (.rem 3 1 2) [(1, 0x20000000), (2, 0x3fffffff)] 3 = some (0x0, 0x1004, .running) := by decide

theorem test_REMU : after (.remu 3 1 2) [(1, 0x3ffffff9), (2, 2)] 3 = some (0x1, 0x1004, .running) ∧
    after (.remu 3 1 2) [(1, 5)] 3 = some (0, 0x1000, .trapped .divByZero) := by decide

theorem test_FADD : after (.fadd 3 1 2) [(1, 0x7ffffffe), (2, 2)] 3 = some (0x1, 0x1004, .running) ∧
    after (.fadd 3 1 2) [(1, 0x40000000), (2, 0x40000000)] 3 = some (0x1, 0x1004, .running) := by decide

theorem test_FSUB : after (.fsub 3 1 2) [(2, 1)] 3 = some (0x7FFFFFFE, 0x1004, .running) ∧
    after (.fsub 3 1 2) [(1, 5), (2, 5)] 3 = some (0x0, 0x1004, .running) := by decide

theorem test_FMUL : after (.fmul 3 1 2) [(1, 0x10000), (2, 0x10000)] 3 = some (0x2, 0x1004, .running) ∧
    after (.fmul 3 1 2) [(1, 0x7ffffffe), (2, 0x7ffffffe)] 3 = some (0x1, 0x1004, .running) := by decide

theorem test_FNEG : after (.fneg 3 1) [(1, 1)] 3 = some (0x7FFFFFFE, 0x1004, .running) ∧
    after (.fneg 3 1) [] 3 = some (0x0, 0x1004, .running) := by decide

theorem test_FINV : after (.finv 3 1) [(1, 3)] 3 = some (0x55555555, 0x1004, .running) ∧
    after (.finv 3 1) [] 3 = some (0, 0x1000, .trapped .divByZero) := by decide

theorem test_ADDI : after (.addi 3 1 (-1)) [] 3 = some (0x3FFFFFFF, 0x1004, .running) ∧
    after (.addi 3 1 1) [(1, 0x3fffffff)] 3 = some (0x0, 0x1004, .running) := by decide

theorem test_SLTI : after (.slti 3 1 0) [(1, 0x3fffffff)] 3 = some (0x1, 0x1004, .running) ∧
    after (.slti 3 1 (-2048)) [(1, 5)] 3 = some (0x0, 0x1004, .running) := by decide

theorem test_SLTIU : after (.sltiu 3 1 (-1)) [(1, 5)] 3 = some (0x1, 0x1004, .running) ∧
    after (.sltiu 3 1 (-1)) [(1, 0x3fffffff)] 3 = some (0x0, 0x1004, .running) := by decide

theorem test_XORI : after (.xori 3 1 (-1)) [(1, 5)] 3 = some (0x3FFFFFFA, 0x1004, .running) := by decide

theorem test_ORI : after (.ori 3 1 15) [(1, 0x100)] 3 = some (0x10F, 0x1004, .running) ∧
    after (.ori 3 1 (-2048)) [] 3 = some (0x3FFFF800, 0x1004, .running) := by decide

theorem test_ANDI : after (.andi 3 1 255) [(1, 0x12345)] 3 = some (0x45, 0x1004, .running) ∧
    after (.andi 3 1 (-1)) [(1, 0x3fffffff)] 3 = some (0x3FFFFFFF, 0x1004, .running) := by decide

theorem test_SLLI : after (.slli 3 1 28) [(1, 3)] 3 = some (0x30000000, 0x1004, .running) ∧
    after (.slli 3 1 31) [(1, 3)] 3 = some (0x6, 0x1004, .running) := by decide

theorem test_SRLI : after (.srli 3 1 28) [(1, 0x30000000)] 3 = some (0x3, 0x1004, .running) := by decide

theorem test_SRAI : after (.srai 3 1 2) [(1, 0x3ffffff0)] 3 = some (0x3FFFFFFC, 0x1004, .running) ∧
    after (.srai 3 1 31) [(1, 0x20000000)] 3 = some (0x30000000, 0x1004, .running) := by decide

theorem test_LUI : after (.lui 3 74565) [] 3 = some (0x12345000, 0x1004, .running) ∧
    after (.lui 3 1048575) [] 3 = some (0x3FFFF000, 0x1004, .running) := by decide

theorem test_AUIPC : after (.auipc 3 1) [] 3 = some (0x2000, 0x1004, .running) ∧
    after (.auipc 3 1048575) [] 3 = some (0x0, 0x1004, .running) := by decide

theorem test_BEQ :
      left (exec (.beq 1 2 8) (start [(1, 0x40000000)] 0x1004 [] 0)) 1 = some (0x40000000, 0x1008, .running) ∧
    left (exec (.beq 1 2 (-4)) (start [] 0x1004 [] 0)) 1 = some (0, 0x1000, .running) := by decide

theorem test_BNE :
      left (exec (.bne 1 2 8) (start [(1, 0x40000000)] 0x1004 [] 0)) 1 = some (0x40000000, 0x100C, .running) ∧
    left (exec (.bne 1 2 6) (start [] 0x1004 [] 0)) 1 = some (0, 0x1008, .running) := by decide

theorem test_BLT :
      left (exec (.blt 1 2 8) (start [(1, 0x3fffffff)] 0x1004 [] 0)) 1 = some (0x3fffffff, 0x100C, .running) := by decide

theorem test_BGE :
      left (exec (.bge 1 2 8) (start [(1, 0x3fffffff)] 0x1004 [] 0)) 1 = some (0x3fffffff, 0x1008, .running) ∧
    left (exec (.bge 1 2 8) (start [(1, 5), (2, 5)] 0x1004 [] 0)) 1 = some (5, 0x100C, .running) := by decide

theorem test_BLTU :
      left (exec (.bltu 1 2 8) (start [(1, 0x3fffffff)] 0x1004 [] 0)) 1 = some (0x3fffffff, 0x1008, .running) ∧
    left (exec (.bltu 1 2 8) (start [(1, 0x40000000), (2, 1)] 0x1004 [] 0)) 1 =
      some (0x40000000, 0x100C, .running) := by decide

theorem test_BGEU :
      left (exec (.bgeu 1 2 8) (start [(1, 0x40000000)] 0x1004 [] 0)) 1 = some (0x40000000, 0x100C, .running) := by decide

theorem test_JAL : after (.jal 1 8) [] 1 = some (0x1004, 0x1008, .running) ∧
    after (.jal 1 2) [(1, 7)] 1 = some (7, 0x1000, .trapped (.misaligned 0x1002)) := by decide

theorem test_JALR : after (.jalr 1 1 1) [(1, 0x1008)] 1 = some (0x1004, 0x1008, .running) ∧
    after (.jalr 1 1 2) [(1, 0x1008)] 1 = some (0x1008, 0x1000, .trapped (.misaligned 0x100A)) := by decide

theorem test_ASSERT_EQ : after (.assertEq 1 2) [(1, 5), (2, 5)] 1 = some (5, 0x1004, .running) ∧
    after (.assertEq 1 2) [(1, 0x40000000)] 1 = some (0x40000000, 0x1000, .trapped .assertionFailed) := by decide

theorem test_ASSERT_NE : after (.assertNe 1 2) [(1, 5), (2, 6)] 1 = some (5, 0x1004, .running) ∧
    after (.assertNe 1 1) [(1, 5)] 1 = some (5, 0x1000, .trapped .assertionFailed) := by decide

theorem test_ASSERT_ZERO : after (.assertZero 1) [] 1 = some (0, 0x1004, .running) ∧
    after (.assertZero 0) [] 1 = some (0, 0x1004, .running) := by decide

theorem test_RANGE_CHECK : after (.rangeCheck 1 8) [(1, 0x100)] 1 = some (0x100, 0x1000, .trapped .rangeCheckFailed) ∧
    after (.rangeCheck 1 31) [(1, 0x7ffffffe)] 1 = some (0x7ffffffe, 0x1004, .running) := by decide

/-- The data bytes of spec/95 §2.7. -/
def bytes : List Byte := [0x80, 0xFF, 0x00, 0x80, 0xFF, 0xFF, 0xFF, 0xFF]

theorem test_LB :
      left (exec (.lb 3 1 0) (start [(1, 0x10000)] 0x1000 bytes 8)) 3 = some (0x3FFFFF80, 0x1004, .running) ∧
    (moved (exec (.lb 3 1 0) (start [(1, 0x10000)] 0x1000 bytes 8))).map Prod.fst =
      some [{ address := 0x10000, width := 1, cycle := 0, value := 0x80, kind := .read }] := by decide

theorem test_LB_traps : left (exec (.lb 3 1 0) (start [(1, 0x0)] 0x1000 bytes 8)) 3 =
    some (0, 0x1000, .trapped (.outOfBounds 0x0)) := by decide

theorem test_LBU : left (exec (.lbu 3 1 0) (start [(1, 0x10000)] 0x1000 bytes 8)) 3 = some (0x80, 0x1004, .running) ∧
    (moved (exec (.lbu 3 1 0) (start [(1, 0x10000)] 0x1000 bytes 8))).map Prod.fst =
      some [{ address := 0x10000, width := 1, cycle := 0, value := 0x80, kind := .read }] := by decide

theorem test_LH :
      left (exec (.lh 3 1 2) (start [(1, 0x10000)] 0x1000 bytes 8)) 3 = some (0x3FFF8000, 0x1004, .running) ∧
    (moved (exec (.lh 3 1 2) (start [(1, 0x10000)] 0x1000 bytes 8))).map Prod.fst =
      some [{ address := 0x10002, width := 2, cycle := 0, value := 0x8000, kind := .read }] := by decide

theorem test_LH_traps : left (exec (.lh 3 1 0) (start [(1, 0x3FFFF)] 0x1000 bytes 8)) 3 =
    some (0, 0x1000, .trapped (.misaligned 0x3FFFF)) := by decide

theorem test_LHU : left (exec (.lhu 3 1 2) (start [(1, 0x10000)] 0x1000 bytes 8)) 3 = some (0x8000, 0x1004, .running) ∧
    (moved (exec (.lhu 3 1 2) (start [(1, 0x10000)] 0x1000 bytes 8))).map Prod.fst =
      some [{ address := 0x10002, width := 2, cycle := 0, value := 0x8000, kind := .read }] := by decide

theorem test_LHU_traps : left (exec (.lhu 3 1 3) (start [(1, 0x10000)] 0x1000 bytes 8)) 3 =
    some (0, 0x1000, .trapped (.misaligned 0x10003)) := by decide

theorem test_LW : left (exec (.lw 3 1 0) (start [(1, 0x10000)] 0x1000 bytes 8)) 3 = some (0xFF81, 0x1004, .running) ∧
    (moved (exec (.lw 3 1 0) (start [(1, 0x10000)] 0x1000 bytes 8))).map Prod.fst =
      some [{ address := 0x10000, width := 4, cycle := 0, value := 0x8000FF80, kind := .read }] := by decide

theorem test_LW_traps : left (exec (.lw 3 1 (-4)) (start [(1, 0x0)] 0x1000 bytes 8)) 3 =
    some (0, 0x1000, .trapped (.outOfBounds 0x3FFFFFFC)) := by decide

theorem test_SB : moved (exec (.sb 1 2 5) (start [(1, 0x10000), (2, 0x12345)] 0x1000 [] 8)) =
    some ([{ address := 0x10005, width := 1, cycle := 0, value := 0x45, kind := .write }], [(0x10005, 0x45)]) := by decide

theorem test_SH : moved (exec (.sh 1 2 2) (start [(1, 0x10000), (2, 0x12345)] 0x1000 [] 8)) =
    some ([{ address := 0x10002, width := 2, cycle := 0, value := 0x2345, kind := .write }],
      [(0x10002, 0x45), (0x10003, 0x23)]) := by decide

theorem test_SW : moved (exec (.sw 1 2 0) (start [(1, 0x10000), (2, 0x7FFFFFFE)] 0x1000 [] 8)) =
    some ([{ address := 0x10000, width := 4, cycle := 0, value := 0x7FFFFFFE, kind := .write }],
      [(0x10000, 0xFE), (0x10001, 0xFF), (0x10002, 0xFF), (0x10003, 0x7F)]) := by decide

theorem test_SH_traps : left (exec (.sh 1 2 1) (start [(1, 0x10000), (2, 5)] 0x1000 [] 8)) 2 =
    some (5, 0x1000, .trapped (.misaligned 0x10001)) := by decide

theorem test_SW_traps : left (exec (.sw 1 2 4) (start [(1, 0x10000), (2, 1)] 0x1000 [] 6)) 2 =
    some (1, 0x1000, .trapped (.outOfBounds 0x10004)) ∧
    left (exec (.sw 1 2 6) (start [(1, 0x10000), (2, 1)] 0x1000 [] 8)) 2 =
      some (1, 0x1000, .trapped (.misaligned 0x10006)) := by decide

/-- A store of 0 takes the byte out of the list: memory keeps its canonical form. -/
theorem test_SB_zero : moved (exec (.sb 1 0 0) (start [(1, 0x10000)] 0x1000 [0x80, 0xFF] 0)) =
    some ([{ address := 0x10000, width := 1, cycle := 0, value := 0, kind := .write }], [(0x10001, 0xFF)]) := by decide

/-- The cursors and buffers a cycle leaves. -/
def channel (o : Result) : Option (Nat × Nat × List Nat × List Nat) :=
  match o with
  | .next t => some (t.inputCursor, t.hintCursor, t.outputs, t.commitments)
  | _ => none

/-- The start state with one input, one hint and 55 in x5. -/
def io : State := { start [(5, 55)] 0x1000 [] 0 with inputs := [0xFFFFFFFF], hints := [7, 9] }

theorem test_READ : left (exec (.read 10) io) 10 = some (1, 0x1004, .running) ∧
    channel (exec (.read 10) io) = some (1, 0, [], []) := by decide

theorem test_READ_exhausted : left (exec (.read 10) { io with inputCursor := 1 }) 10 =
    some (0, 0x1000, .trapped (.inputExhausted .input)) := by decide

theorem test_HINT : left (exec (.hint 11) io) 11 = some (7, 0x1004, .running) ∧
    channel (exec (.hint 11) io) = some (0, 1, [], []) := by decide

theorem test_HINT_exhausted : left (exec (.hint 11) { io with hintCursor := 2 }) 11 =
    some (0, 0x1000, .trapped (.inputExhausted .hint)) := by decide

theorem test_WRITE : channel (exec (.write 5) io) = some (0, 0, [55], []) := by decide

theorem test_COMMIT : channel (exec (.commit 5) io) = some (0, 0, [], [55]) := by decide

theorem test_EBREAK : left (exec .ebreak io) 5 = some (55, 0x1000, .trapped .breakpoint) := by decide

theorem test_HALT : left (exec .halt io) 5 = some (55, 0x1000, .halted) := by decide

theorem test_DEBUG : left (exec (.debug 10) io) 5 = some (55, 0x1004, .running) := by decide

/-! ### ECALL with the stub table of spec/95 §2.12 -/

/-- The five stub providers. -/
def stubs : List (Nat × Provider) := [
  (1, .script (.load (.view (.arg 0)) .word (.ok2 (.loaded 0) (.lit 0)))),
  (2, .script (.store (.view (.arg 0)) .word (.arg 1) (.ok1 (.lit 0)))),
  (3, .script (.err 7)), (4, .script .exit), (5, .script (.ok1 (.lit 1)))]

/-- The start state with the stub table, number `n` in a7, and `a0`, `a1`. -/
def call (n a0 a1 : Nat) : State :=
  { start [(10, a0), (11, a1), (17, n)] 0x1008 [1, 2, 3, 4] 0 with
    cfg := { Config.reference with syscalls := stubs } }

theorem test_ECALL_load : left (exec .ecall (call 1 0x10000 9)) 10 = some (0x04030201, 0x100C, .running) ∧
    left (exec .ecall (call 1 0x10000 9)) 11 = some (0, 0x100C, .running) := by decide

theorem test_ECALL_store : (moved (exec .ecall (call 2 0x10000 0x3FFFFFFF))).map Prod.snd =
    some [(0x10000, 0xFF), (0x10001, 0xFF), (0x10002, 0xFF), (0x10003, 0x3F)] := by decide

theorem test_ECALL_traps : left (exec .ecall (call 1 2 0)) 10 = some (2, 0x1008, .trapped (.misaligned 2)) ∧
    left (exec .ecall (call 1 0x1000 0)) 10 = some (0x1000, 0x1008, .trapped (.outOfBounds 0x1000)) ∧
    left (exec .ecall (call 3 0 0)) 10 = some (0, 0x1008, .trapped .syscallFailed) ∧
    left (exec .ecall (call 6 0 0)) 10 = some (0, 0x1008, .trapped (.unknownSyscall 6)) := by decide

theorem test_ECALL_exit : left (exec .ecall (call 4 0 0)) 10 = some (0, 0x1008, .halted) ∧
    left (exec .ecall (call 5 9 0)) 10 = some (1, 0x100C, .running) := by decide

/-! ### The cycle (spec/95 §2.13) -/

theorem test_step_runs :
      left (step (State.reset.withFetchWord 32 0x00500093)) 1 = some (5, 0x1004, .running) := by decide

theorem test_step_traps :
      left (step { State.reset with pc := 0x1002 }) 1 = some (0, 0x1002, .trapped (.misaligned 0x1002)) ∧
    left (step { State.reset with pc := 0x2000 }) 1 = some (0, 0x2000, .trapped (.invalidAddress 0x2000)) ∧
    left (step (State.reset.withFetchWord 32 0)) 1 = some (0, 0x1000, .trapped (.invalidInstruction 0)) := by decide

theorem test_cycle_limit : left (step { State.reset.withFetchWord 32 0x00500093 with limit := 1 }) 1 =
      some (5, 0x1004, .trapped .cycleLimitExceeded) ∧
    left (step { State.reset.withFetchWord 32 0x00200073 with limit := 1 }) 1 = some (0, 0x1000, .halted) := by decide

theorem test_no_step : step { State.reset with status := .halted } = .fault (.runEnded .halted) := rfl
/-! ### States that meet the hypotheses of the statements -/

/-- The field's order is prime: 2^31 - 1 passes the Lucas-Lehmer test. -/
theorem prime_P : Nat.Prime 2147483647 := by
  have h : mersenne 31 = 2147483647 := by norm_num [mersenne]
  exact h ▸ lucas_lehmer_sufficiency 31 (by norm_num) (by norm_num)

/-- The invariant without the primality of `P`, every clause of it decidable. -/
abbrev Checked (s : State) : Prop :=
  (2 ^ s.cfg.W < s.cfg.P ∧ s.cfg.P < 2 ^ 32 ∧ 16 ≤ s.cfg.W ∧ (s.cfg.N = 16 ∨ s.cfg.N = 32)) ∧ BasesValid s.cfg ∧
    SyscallsValid s.cfg ∧ SegmentsFit s.cfg 0 0 ∧ SegmentsFit s.cfg s.codeSize s.dataSize ∧
    s.regs.length = s.cfg.N - 1 ∧ (∀ v ∈ s.regs, v < s.cfg.P) ∧ Memory.wf s.mem = true ∧
    (∀ c ∈ s.mem, c.1 < 2 ^ s.cfg.W) ∧
    (s.status = .running → s.cycleCount ≠ 0 → s.pc % 4 = 0 ∧ s.pc < 2 ^ s.cfg.W) ∧
    s.inputCursor ≤ s.inputs.length ∧ s.hintCursor ≤ s.hints.length ∧ (∀ v ∈ s.outputs, v < s.cfg.P) ∧
    (∀ v ∈ s.commitments, v < s.cfg.P) ∧ s.trace.length = s.cycleCount ∧ s.cycleCount ≤ s.limit ∧
    (s.status = .running → s.cycleCount < s.limit)

theorem inv_of {s : State} (hP : s.cfg.P = 2147483647) (h : Checked s) : s.Inv := by
  obtain ⟨h1, h2, h3, h4, h5, h6, h7, h8, h9, h10, h11, h12, h13, h14, h15, h16, h17⟩ := h
  exact ⟨⟨⟨hP ▸ prime_P, h1⟩, h2, h3, h4⟩, h5, h6, h7, h8, h9, h10, h11, h12, h13, h14, h15, h16, h17⟩

theorem ready_of {i : Instr} {s : State} (h : s.Inv) (hs : s.status = .running) (hw : i.wellFormed s.cfg.N = true) :
    Ready i s := ⟨h, hs, hw⟩

/-- A state of a run: x1 and x2 as given, the pc at 0x1004, 16 bytes of data, one input left, two hints. -/
def demo (x1 x2 : Nat) : State :=
  { start [(1, x1), (2, x2)] 0x1004 bytes 8 with inputs := [0xFFFFFFFF], hints := [7, 9] }

theorem demo_inv : (demo 0x10000 0x7FFFFFFE).Inv := inv_of rfl (by decide)

/-- Other register values below `P` keep the invariant. -/
theorem demo_ready {i : Instr} (x1 x2 : Nat) (h : Checked (demo x1 x2)) (hw : i.wellFormed 32 = true) :
    Ready i (demo x1 x2) := ⟨inv_of rfl h, rfl, hw⟩

theorem valueAt_of (s : State) (a n v : Nat) (h : memRead s.mem a n = v) : valueAt s a n = v :=
  (memRead_state s a n).symm.trans h

/-! ### Witnesses: encoding -/

theorem witness_RoundTrip : (Instr.rangeCheck 15 31).wellFormed 16 = true ∧ (Instr.jal 31 (-1048576)).wellFormed 32 = true ∧
    decode 16 0x0100B05B = .ok (.rangeCheck 1 16) ∧ decode 32 0x8000006F = .ok (.jal 0 (-1048576)) := by decide

theorem witness_RowsDisjoint : ∃ a ∈ rows, ∃ b ∈ rows, (0x403100B3 : Word) &&& a.mask = a.pat ∧
    (0x403100B3 : Word) &&& b.mask = b.pat := by
  refine ⟨rows[1], List.getElem_mem (by decide), rows[1], List.getElem_mem (by decide), by decide, by decide⟩

theorem witness_UnassignedOpcodes :
    (0x0000000F : Word).toNat % 128 ∉ [0x03, 0x0B, 0x13, 0x17, 0x23, 0x2B, 0x33, 0x37, 0x5B, 0x63, 0x67, 0x6F, 0x73] := by
  decide

/-- MULH, a word of the statement's OP clause. -/
theorem witness_IllegalEncodings : (0x02001033 : Word).toNat % 128 = 0x33 ∧ (0x02001033 : Word).toNat / 2 ^ 25 = 0x01 ∧
    (0x02001033 : Word).toNat / 2 ^ 12 % 8 ∈ [1, 2, 3] := by decide

theorem witness_RegisterIndexCheck : decode 32 0x0100B05B = .ok (.rangeCheck 1 16) ∧
    (∀ r ∈ (Instr.rangeCheck 1 16).registers, r < 16) ∧ decode 32 0x00208833 = .ok (.add 16 1 2) ∧
    ∃ r ∈ (Instr.add 16 1 2).registers, 16 ≤ r := by decide

/-- The least width and the least width of the J clause, with the fields of an all-ones word. -/
theorem witness_ImmediateValues : 16 ≤ 16 ∧ 16 ≤ 21 ∧ 21 ≤ 21 ∧ 4095 = (0xFFFFFFFF : Word).toNat / 2 ^ 20 := by decide

/-! ### Witnesses: reset, the cycle and the run -/

/-- An image of two code words, data and bss. -/
def image : Image := { entryPoint := 0x1000, code := [0x73, 0x00, 0x30, 0x00, 0x73, 0x00, 0x20, 0x00], data := bytes, bssSize := 8 }

theorem reference_valid : ConfigValid Config.reference := ⟨⟨prime_P, by decide⟩, by decide⟩

theorem witness_ResetValues : ConfigValid Config.reference ∧
    SegmentsFit Config.reference image.code.length (image.data.length + image.bssSize) := ⟨reference_valid, by decide⟩

theorem witness_InvalidRunsRefused : ¬ConfigValid { Config.reference with W := 31 } ∧
    ConfigValid Config.reference ∧ ¬SegmentsFit Config.reference 0xF004 4 := by
  refine ⟨fun h => ?_, reference_valid, by decide⟩
  exact absurd h.1.2.1 (by decide)

/-- A run exists, with the limit 0 and with the limit 7. -/
theorem witness_boot (limit : Nat) :
    boot Config.reference image [1] [2] limit = .next (State.initial Config.reference image [1] [2] limit) := by
  unfold boot
  rw [if_pos reference_valid, if_pos (by decide)]

theorem witness_BootInvariant : ∃ s, boot Config.reference image [1] [2] 0 = .next s := ⟨_, witness_boot 0⟩

theorem witness_RunsEnd : ∃ s, boot Config.reference image [1] [2] 7 = .next s := ⟨_, witness_boot 7⟩

/-- A state of a run whose next fetch reads `v`, with the limit `limit`. -/
def fetching (v : Nat) (limit : Nat) : State := { (demo 0x10000 0x7FFFFFFE).withFetchWord 32 v with limit := limit }

theorem witness_StepKeepsInvariant : (fetching 0x0020A023 9).Inv ∧ ∃ t, step (fetching 0x0020A023 9) = .next t :=
  ⟨inv_of rfl (by decide), _, rfl⟩

theorem witness_StepRunsDecoded : (fetching 0x0020A023 9).status = .running ∧ (fetching 0x0020A023 9).pc % 4 = 0 ∧
    CodeAt (fetching 0x0020A023 9) 0x1004 4 ∧
    decode 32 (BitVec.ofNat 32 (valueAt (fetching 0x0020A023 9) 0x1004 4)) = .ok (.sw 1 2 0) := by
  refine ⟨rfl, rfl, ⟨by decide, by decide⟩, ?_⟩
  rw [valueAt_of _ _ _ 0x0020A023 (by decide)]
  decide

theorem witness_FetchTraps_misaligned : { demo 0 0 with pc := 0x1002 }.status = .running ∧ 0x1002 % 4 ≠ 0 := by decide

/-- The last word of the code segment is inside it, the next one is not. -/
theorem witness_FetchTraps_outside : { demo 0 0 with pc := 0x1040 }.status = .running ∧ 0x1040 % 4 = 0 ∧
    ¬CodeAt { demo 0 0 with pc := 0x1040 } 0x1040 4 ∧ CodeAt { demo 0 0 with pc := 0x103C } 0x103C 4 := by
  simp [CodeAt, demo, start, State.reset, Config.reference]

theorem witness_FetchTraps_illegal : (demo 0 0).status = .running ∧ 0x1004 % 4 = 0 ∧ CodeAt (demo 0 0) 0x1004 4 ∧
    ∀ i, decode 32 (BitVec.ofNat 32 (valueAt (demo 0 0) 0x1004 4)) ≠ .ok i := by
  refine ⟨rfl, rfl, ⟨by decide, by decide⟩, ?_⟩
  rw [valueAt_of _ _ _ 0 (by decide)]
  intro i h
  have : decode 32 (BitVec.ofNat 32 0) = .error .noRow := by decide
  rw [this] at h
  cases h

theorem witness_NoStepAfterEnd : { demo 0 0 with status := .halted }.Ended ∧
    { demo 0 0 with status := .trapped .breakpoint }.Ended := ⟨by simp [State.Ended], by simp [State.Ended]⟩

theorem witness_OneRowPerCycle : (demo 0 0).status = .running := rfl

/-- A cycle below the limit, and the `L`-th cycle. -/
theorem witness_CycleLimit : (fetching 0x00350073 2).Inv ∧ (fetching 0x00350073 1).Inv ∧
    left (step (fetching 0x00350073 2)) 0 = some (0, 0x1008, .running) ∧
    left (step (fetching 0x00350073 1)) 0 = some (0, 0x1008, .trapped .cycleLimitExceeded) :=
  ⟨inv_of rfl (by decide), inv_of rfl (by decide), by decide, by decide⟩

theorem witness_TrapsAreExact : ∃ t, step (fetching 0x00100073 9) = .next t ∧ t.status = .trapped .breakpoint ∧
    TrapReason.breakpoint ≠ .cycleLimitExceeded := ⟨_, rfl, by decide, by decide⟩

/-- The hypothesis of RunConstants and AppendOnly. -/
theorem witness_step : ∃ t, step (fetching 0x0020A023 9) = .next t := ⟨_, rfl⟩

/-- The first and the last byte of the code segment. -/
theorem witness_CodeNeverWritten : (demo 0x10000 0x7FFFFFFE).Inv ∧ CodeAt (demo 0x10000 0x7FFFFFFE) 0x1000 1 ∧
    CodeAt (demo 0x10000 0x7FFFFFFE) 0x103F 1 := ⟨demo_inv, ⟨by decide, by decide⟩, by decide, by decide⟩

theorem witness_OnlyDataWritten : (fetching 0x0020A023 9).Inv ∧
    ∃ t, step (fetching 0x0020A023 9) = .next t ∧ t.readByte 0x10000 ≠ (fetching 0x0020A023 9).readByte 0x10000 :=
  ⟨inv_of rfl (by decide), _, rfl, by decide⟩

theorem witness_OnlyDestinationsWritten : (demo 0x10000 0x7FFFFFFE).Inv ∧
    (∃ t, exec (.add 3 1 2) (demo 0x10000 0x7FFFFFFE) = .next t) ∧ 2 ∉ destinations (.add 3 1 2) ∧
    17 ∉ destinations .ecall := ⟨demo_inv, ⟨_, rfl⟩, by decide, by decide⟩

/-- The hypothesis of OnlyReadHintMoveCursors and OnlyWriteCommitAppend. -/
theorem witness_exec : ∃ t, exec (.read 3) (demo 1 2) = .next t := ⟨_, rfl⟩

theorem witness_OutputsNeverRead : Agree (fetching 0x0020A023 9) { fetching 0x0020A023 9 with outputs := [5], limit := 1 } ∧
    (fetching 0x0020A023 9).status = .running ∧ ∃ t, step (fetching 0x0020A023 9) = .next t :=
  ⟨⟨rfl, rfl, rfl, rfl, rfl, rfl, rfl, rfl, rfl, rfl⟩, rfl, _, rfl⟩

/-! ### Witnesses: registers and memory -/

/-- x0 and the last register. -/
theorem witness_RegisterWrite : (demo 0x10000 0x7FFFFFFE).Inv ∧ 0 < (demo 0x10000 0x7FFFFFFE).cfg.N ∧
    31 < (demo 0x10000 0x7FFFFFFE).cfg.N := ⟨demo_inv, by decide, by decide⟩

theorem witness_ReadAfterWrite : Memory.wf (demo 0 0).mem = true := by decide

/-- The last word of the data segment. -/
theorem witness_StoreThenLoad : (demo 0x1000C 0x7FFFFFFE).Inv ∧ ea (demo 0x1000C 0x7FFFFFFE) 1 0 % 4 = 0 ∧
    ea (demo 0x1000C 0x7FFFFFFE) 1 0 % 2 = 0 ∧ DataAt (demo 0x1000C 0x7FFFFFFE) (ea (demo 0x1000C 0x7FFFFFFE) 1 0) 4 ∧
    DataAt (demo 0x1000C 0x7FFFFFFE) (ea (demo 0x1000C 0x7FFFFFFE) 1 0) 2 ∧
    DataAt (demo 0x1000C 0x7FFFFFFE) (ea (demo 0x1000C 0x7FFFFFFE) 1 0) 1 :=
  ⟨inv_of rfl (by decide), by decide, by decide, .inl ⟨by decide, by decide⟩, .inl ⟨by decide, by decide⟩,
    .inl ⟨by decide, by decide⟩⟩

/-! ### Witnesses: integer and field instructions -/

theorem witness_AddSubMul : Ready (.add 3 1 2) (demo 0x3FFFFFFF 1) ∧ Ready (.sub 0 1 2) (demo 0x3FFFFFFF 1) ∧
    Ready (.mul 1 1 1) (demo 0x3FFFFFFF 1) :=
  have h : Checked (demo 0x3FFFFFFF 1) := by decide
  ⟨demo_ready _ _ h rfl, demo_ready _ _ h rfl, demo_ready _ _ h rfl⟩

theorem witness_Logic : Ready (.xor 3 1 2) (demo 0x40000005 1) ∧ Ready (.or 31 1 2) (demo 0x40000005 1) ∧
    Ready (.and 0 1 2) (demo 0x40000005 1) :=
  have h : Checked (demo 0x40000005 1) := by decide
  ⟨demo_ready _ _ h rfl, demo_ready _ _ h rfl, demo_ready _ _ h rfl⟩

theorem witness_LogicImmediate : Ready (.xori 3 1 (-2048)) (demo 5 1) ∧ Ready (.ori 3 1 2047) (demo 5 1) ∧
    Ready (.andi 0 1 (-1)) (demo 5 1) :=
  have h : Checked (demo 5 1) := by decide
  ⟨demo_ready _ _ h rfl, demo_ready _ _ h rfl, demo_ready _ _ h rfl⟩

theorem witness_Shifts : Ready (.sll 3 1 2) (demo 3 0x1F) ∧ Ready (.srl 3 1 2) (demo 3 0x1F) ∧
    Ready (.sra 3 1 2) (demo 3 0x1F) :=
  have h : Checked (demo 3 0x1F) := by decide
  ⟨demo_ready _ _ h rfl, demo_ready _ _ h rfl, demo_ready _ _ h rfl⟩

theorem witness_ShiftsImmediate : Ready (.slli 3 1 31) (demo 3 0) ∧ Ready (.srli 3 1 30) (demo 3 0) ∧
    Ready (.srai 0 1 0) (demo 3 0) :=
  have h : Checked (demo 3 0) := by decide
  ⟨demo_ready _ _ h rfl, demo_ready _ _ h rfl, demo_ready _ _ h rfl⟩

theorem witness_Comparisons : Ready (.slt 3 1 2) (demo 0x20000000 0x1FFFFFFF) ∧
    Ready (.sltu 3 1 2) (demo 0x20000000 0x1FFFFFFF) ∧ Ready (.slti 3 1 (-2048)) (demo 0x20000000 0x1FFFFFFF) ∧
    Ready (.sltiu 3 1 (-1)) (demo 0x20000000 0x1FFFFFFF) :=
  have h : Checked (demo 0x20000000 0x1FFFFFFF) := by decide
  ⟨demo_ready _ _ h rfl, demo_ready _ _ h rfl, demo_ready _ _ h rfl, demo_ready _ _ h rfl⟩

theorem witness_ImmediateAdds : Ready (.addi 3 1 (-1)) (demo 0 0) ∧ Ready (.lui 31 0xFFFFF) (demo 0 0) ∧
    Ready (.auipc 3 0) (demo 0 0) :=
  have h : Checked (demo 0 0) := by decide
  ⟨demo_ready _ _ h rfl, demo_ready _ _ h rfl, demo_ready _ _ h rfl⟩

theorem witness_CopyOfAFieldElement : Ready (.addi 3 1 0) (demo 0x40000005 0) ∧ Ready (.fadd 3 1 0) (demo 0x40000005 0) :=
  have h : Checked (demo 0x40000005 0) := by decide
  ⟨demo_ready _ _ h rfl, demo_ready _ _ h rfl⟩

theorem witness_Divisions : Ready (.div 3 1 2) (demo 7 2) ∧ Ready (.divu 3 1 2) (demo 7 2) ∧ Ready (.rem 3 1 2) (demo 7 2) ∧
    Ready (.remu 3 1 2) (demo 7 2) ∧ u (demo 7 2) 2 ≠ 0 :=
  have h : Checked (demo 7 2) := by decide
  ⟨demo_ready _ _ h rfl, demo_ready _ _ h rfl, demo_ready _ _ h rfl, demo_ready _ _ h rfl, by decide⟩

/-- A divisor whose `W`-bit view alone is zero. -/
theorem witness_Divisions_zero : Ready (.div 3 1 2) (demo 7 0x40000000) ∧ Ready (.divu 3 1 2) (demo 7 0x40000000) ∧
    Ready (.rem 3 1 2) (demo 7 0x40000000) ∧ Ready (.remu 3 1 2) (demo 7 0x40000000) ∧ u (demo 7 0x40000000) 2 = 0 :=
  have h : Checked (demo 7 0x40000000) := by decide
  ⟨demo_ready _ _ h rfl, demo_ready _ _ h rfl, demo_ready _ _ h rfl, demo_ready _ _ h rfl, by decide⟩

/-- The overflow, `-2^29` by `-1`. -/
theorem witness_DivisionIdentity_overflow : Ready (.div 3 1 2) (demo 0x20000000 0x3FFFFFFF) ∧
    u (demo 0x20000000 0x3FFFFFFF) 2 ≠ 0 ∧ sg (demo 0x20000000 0x3FFFFFFF) 1 = -2 ^ 29 ∧
    sg (demo 0x20000000 0x3FFFFFFF) 2 = -1 ∧ (∃ t, exec (.div 3 1 2) (demo 0x20000000 0x3FFFFFFF) = .next t) ∧
    ∃ t, exec (.rem 3 1 2) (demo 0x20000000 0x3FFFFFFF) = .next t :=
  ⟨demo_ready _ _ (by decide) rfl, by decide, by decide, by decide, ⟨_, rfl⟩, _, rfl⟩

/-- No overflow, a nonzero remainder: `-7` by `2`. -/
theorem witness_DivisionIdentity : Ready (.div 3 1 2) (demo 0x3FFFFFF9 2) ∧ u (demo 0x3FFFFFF9 2) 2 ≠ 0 ∧
    sg (demo 0x3FFFFFF9 2) 1 ≠ -2 ^ 29 ∧ (∃ t, exec (.div 3 1 2) (demo 0x3FFFFFF9 2) = .next t) ∧
    ∃ t, exec (.rem 3 1 2) (demo 0x3FFFFFF9 2) = .next t ∧ sg t 3 ≠ 0 :=
  ⟨demo_ready _ _ (by decide) rfl, by decide, by decide, ⟨_, rfl⟩, _, rfl, by decide⟩

theorem witness_FieldArithmetic : Ready (.fadd 3 1 2) (demo 0x7FFFFFFE 2) ∧ Ready (.fsub 3 1 2) (demo 0x7FFFFFFE 2) ∧
    Ready (.fmul 0 1 2) (demo 0x7FFFFFFE 2) ∧ Ready (.fneg 3 0) (demo 0x7FFFFFFE 2) :=
  have h : Checked (demo 0x7FFFFFFE 2) := by decide
  ⟨demo_ready _ _ h rfl, demo_ready _ _ h rfl, demo_ready _ _ h rfl, demo_ready _ _ h rfl⟩

/-- `2^W` has an inverse, 0 has none. -/
theorem witness_FieldInverse : Ready (.finv 3 1) (demo 0x40000000 0) ∧ (demo 0x40000000 0).readReg 1 ≠ 0 ∧
    Ready (.finv 3 2) (demo 0x40000000 0) ∧ (demo 0x40000000 0).readReg 2 = 0 :=
  have h : Checked (demo 0x40000000 0) := by decide
  ⟨demo_ready _ _ h rfl, by decide, demo_ready _ _ h rfl, by decide⟩

/-! ### Witnesses: loads and stores -/

/-- The last byte, halfword and word of the data segment. -/
theorem witness_Loads : Ready (.lb 3 1 15) (demo 0x10000 0) ∧ Ready (.lbu 3 1 15) (demo 0x10000 0) ∧
    Ready (.lh 3 1 14) (demo 0x10000 0) ∧ Ready (.lhu 3 1 14) (demo 0x10000 0) ∧ Ready (.lw 0 1 12) (demo 0x10000 0) ∧
    DataAt (demo 0x10000 0) (ea (demo 0x10000 0) 1 15) 1 ∧ DataAt (demo 0x10000 0) (ea (demo 0x10000 0) 1 14) 2 ∧
    DataAt (demo 0x10000 0) (ea (demo 0x10000 0) 1 12) 4 ∧ ea (demo 0x10000 0) 1 14 % 2 = 0 ∧
    ea (demo 0x10000 0) 1 12 % 4 = 0 :=
  have h : Checked (demo 0x10000 0) := by decide
  ⟨demo_ready _ _ h rfl, demo_ready _ _ h rfl, demo_ready _ _ h rfl, demo_ready _ _ h rfl, demo_ready _ _ h rfl,
    .inl ⟨by decide, by decide⟩, .inl ⟨by decide, by decide⟩, .inl ⟨by decide, by decide⟩, by decide, by decide⟩

/-- The last byte, halfword and word of the stack segment, through a negative offset. -/
theorem witness_Stores : Ready (.sb 1 2 (-1)) (demo 0x40000 0x7FFFFFFE) ∧ Ready (.sh 1 2 (-2)) (demo 0x40000 0x7FFFFFFE) ∧
    Ready (.sw 1 2 (-4)) (demo 0x40000 0x7FFFFFFE) ∧
    DataAt (demo 0x40000 0x7FFFFFFE) (ea (demo 0x40000 0x7FFFFFFE) 1 (-1)) 1 ∧
    DataAt (demo 0x40000 0x7FFFFFFE) (ea (demo 0x40000 0x7FFFFFFE) 1 (-2)) 2 ∧
    DataAt (demo 0x40000 0x7FFFFFFE) (ea (demo 0x40000 0x7FFFFFFE) 1 (-4)) 4 ∧
    ea (demo 0x40000 0x7FFFFFFE) 1 (-2) % 2 = 0 ∧ ea (demo 0x40000 0x7FFFFFFE) 1 (-4) % 4 = 0 :=
  have h : Checked (demo 0x40000 0x7FFFFFFE) := by decide
  ⟨demo_ready _ _ h rfl, demo_ready _ _ h rfl, demo_ready _ _ h rfl, .inr (.inr ⟨by decide, by decide⟩),
    .inr (.inr ⟨by decide, by decide⟩), .inr (.inr ⟨by decide, by decide⟩), by decide, by decide⟩

/-- Misaligned inside and outside every segment; aligned one past the data segment, and in the code segment. -/
theorem witness_Loads_traps : Ready (.lw 3 1 18) (demo 0x10000 0) ∧ Ready (.sw 1 2 16) (demo 0x10000 0) ∧
    ea (demo 0x10000 0) 1 13 % 2 ≠ 0 ∧ ea (demo 0x10000 0) 1 18 % 4 ≠ 0 ∧ ea (demo 0x10000 0) 1 16 % 4 = 0 ∧
    ¬DataAt (demo 0x10000 0) (ea (demo 0x10000 0) 1 16) 4 ∧ ¬DataAt (demo 0x10000 0) (ea (demo 0x10000 0) 1 16) 1 ∧
    ¬DataAt (demo 0x10000 0) (ea (demo 0x10000 0) 1 16) 2 ∧ ¬DataAt (demo 0x1000 0) (ea (demo 0x1000 0) 1 0) 4 := by
  have e : ea (demo 0x10000 0) 1 16 = 0x10010 := by decide
  have e' : ea (demo 0x1000 0) 1 0 = 0x1000 := by decide
  rw [e, e']
  refine ⟨demo_ready _ _ (by decide) rfl, demo_ready _ _ (by decide) rfl, by decide, by decide, by decide, ?_, ?_, ?_, ?_⟩ <;>
    simp [DataAt, demo, start, State.reset, Config.reference, bytes]

/-! ### Witnesses: control transfer, I/O, assertions, system -/

theorem witness_EqualityBranches : Ready (.beq 1 2 (-4)) (demo 0x40000000 0) ∧ Ready (.bne 1 2 6) (demo 0x40000000 0) ∧
    (demo 0x40000000 0).readReg 1 ≠ (demo 0x40000000 0).readReg 2 ∧
    (demo 0x40000000 0).readReg 0 = (demo 0x40000000 0).readReg 2 ∧ target (demo 0x40000000 0) (-4) % 4 = 0 ∧
    target (demo 0x40000000 0) 6 % 4 ≠ 0 :=
  have h : Checked (demo 0x40000000 0) := by decide
  ⟨demo_ready _ _ h rfl, demo_ready _ _ h rfl, by decide, by decide, by decide, by decide⟩

/-- `-1 < 0` signed, and not less unsigned; the equal operands of the other outcome. -/
theorem witness_OrderBranches : Ready (.blt 1 2 4094) (demo 0x3FFFFFFF 0) ∧ Ready (.bge 1 2 (-4096)) (demo 0x3FFFFFFF 0) ∧
    Ready (.bltu 1 2 6) (demo 0x3FFFFFFF 0) ∧ Ready (.bgeu 1 2 8) (demo 0x3FFFFFFF 0) ∧
    sg (demo 0x3FFFFFFF 0) 1 < sg (demo 0x3FFFFFFF 0) 2 ∧ ¬sg (demo 0x3FFFFFFF 0) 2 < sg (demo 0x3FFFFFFF 0) 2 ∧
    u (demo 0x3FFFFFFF 0) 2 < u (demo 0x3FFFFFFF 0) 1 ∧ ¬u (demo 0x3FFFFFFF 0) 1 < u (demo 0x3FFFFFFF 0) 2 ∧
    target (demo 0x3FFFFFFF 0) 8 % 4 = 0 ∧ target (demo 0x3FFFFFFF 0) 4094 % 4 ≠ 0 :=
  have h : Checked (demo 0x3FFFFFFF 0) := by decide
  ⟨demo_ready _ _ h rfl, demo_ready _ _ h rfl, demo_ready _ _ h rfl, demo_ready _ _ h rfl, by decide, by decide,
    by decide, by decide, by decide, by decide⟩

theorem witness_Jumps : Ready (.jal 1 8) (demo 0x1008 0) ∧ Ready (.jal 0 2) (demo 0x1008 0) ∧
    target (demo 0x1008 0) 8 % 4 = 0 ∧ target (demo 0x1008 0) 2 % 4 ≠ 0 ∧ Ready (.jalr 1 1 1) (demo 0x1008 0) ∧
    Ready (.jalr 1 1 2) (demo 0x1008 0) ∧ 0x1008 = ea (demo 0x1008 0) 1 1 - ea (demo 0x1008 0) 1 1 % 2 ∧
    0x100A = ea (demo 0x1008 0) 1 2 - ea (demo 0x1008 0) 1 2 % 2 :=
  have h : Checked (demo 0x1008 0) := by decide
  ⟨demo_ready _ _ h rfl, demo_ready _ _ h rfl, by decide, by decide, demo_ready _ _ h rfl, demo_ready _ _ h rfl,
    by decide, by decide⟩

/-- The last element and none left. -/
theorem witness_ReadAndHint : Ready (.read 0) (demo 1 2) ∧ (demo 1 2).inputs[(demo 1 2).inputCursor]? = some 0xFFFFFFFF ∧
    Ready (.hint 10) { demo 1 2 with hintCursor := 1 } ∧ [7, 9][1]? = some 9 ∧
    Ready (.read 10) { demo 1 2 with inputCursor := 1 } ∧ [0xFFFFFFFF].length ≤ 1 ∧
    Ready (.hint 10) { demo 1 2 with hintCursor := 2 } ∧ [7, 9].length ≤ 2 :=
  ⟨demo_ready _ _ (by decide) rfl, rfl, ⟨inv_of rfl (by decide), rfl, rfl⟩, rfl, ⟨inv_of rfl (by decide), rfl, rfl⟩,
    by decide, ⟨inv_of rfl (by decide), rfl, rfl⟩, by decide⟩

theorem witness_WriteAndCommit : Ready (.write 0) (demo 55 0) ∧ Ready (.commit 1) (demo 55 0) :=
  have h : Checked (demo 55 0) := by decide
  ⟨demo_ready _ _ h rfl, demo_ready _ _ h rfl⟩

/-- Each predicate holds and fails; RANGE_CHECK at both sides of `2^8`, with 0 bits and with 31. -/
theorem witness_Assertions : Ready (.assertEq 1 2) (demo 255 256) ∧ Ready (.assertNe 1 2) (demo 255 256) ∧
    Ready (.assertZero 1) (demo 255 256) ∧ Ready (.rangeCheck 1 8) (demo 255 256) ∧
    Ready (.rangeCheck 2 0) (demo 255 256) ∧ Ready (.rangeCheck 1 31) (demo 255 256) ∧
    (demo 255 256).readReg 1 ≠ (demo 255 256).readReg 2 ∧ (demo 255 256).readReg 1 ≠ 0 ∧ (demo 255 256).readReg 0 = 0 ∧
    (demo 255 256).readReg 1 < 2 ^ 8 ∧ 2 ^ 8 ≤ (demo 255 256).readReg 2 :=
  have h : Checked (demo 255 256) := by decide
  ⟨demo_ready _ _ h rfl, demo_ready _ _ h rfl, demo_ready _ _ h rfl, demo_ready _ _ h rfl, demo_ready _ _ h rfl,
    demo_ready _ _ h rfl, by decide, by decide, rfl, by decide, by decide⟩

theorem witness_EbreakHaltDebug : Ready .ebreak (demo 0 0) ∧ Ready .halt (demo 0 0) ∧ Ready (.debug 31) (demo 0 0) :=
  have h : Checked (demo 0 0) := by decide
  ⟨demo_ready _ _ h rfl, demo_ready _ _ h rfl, demo_ready _ _ h rfl⟩

theorem witness_EcallOutcomes_unknown : Ready .ecall (call 6 0 0) ∧
    ∀ q, (syscallNumber (call 6 0 0), q) ∉ (call 6 0 0).cfg.syscalls := by
  refine ⟨⟨inv_of rfl (by decide), rfl, rfl⟩, fun q h => ?_⟩
  have e : syscallNumber (call 6 0 0) = 6 := by decide
  rw [e] at h
  simp [call, stubs] at h

/-- A provider of each outcome: results 0x04030201 and 0, a misaligned access, `Err`, `Exit`. -/
theorem witness_EcallOutcomes : Ready .ecall (call 1 0x10000 0) ∧
    (1, .script (.load (.view (.arg 0)) .word (.ok2 (.loaded 0) (.lit 0)))) ∈ (call 1 0x10000 0).cfg.syscalls ∧
    syscallNumber (call 1 0x10000 0) = 1 ∧
    (∃ m log, outcomeOf (.script (.load (.view (.arg 0)) .word (.ok2 (.loaded 0) (.lit 0)))) (call 1 0x10000 0) =
      .ok (.two 0x04030201 0) m log) ∧
    outcomeOf (.script (.load (.view (.arg 0)) .word (.ok2 (.loaded 0) (.lit 0)))) (call 1 2 0) = .trap (.misaligned 2) ∧
    outcomeOf (.script (.err 7)) (call 3 0 0) = .err 7 ∧
    ∃ m log, outcomeOf (.script .exit) (call 4 0 0) = .exit m log :=
  ⟨⟨inv_of rfl (by decide), rfl, rfl⟩, by decide, by decide, ⟨_, _, rfl⟩, rfl, rfl, _, _, rfl⟩

/-- Misaligned; aligned in the code segment; the last word of the data segment. -/
theorem witness_ProviderAccesses : 2 % widthBytes .word ≠ 0 ∧ 0x1000 % widthBytes .word = 0 ∧
    ¬DataAt (demo 0 0) 0x1000 (widthBytes .word) ∧ 0x1000C % widthBytes .word = 0 ∧
    DataAt (demo 0 0) 0x1000C (widthBytes .word) := by
  simp [DataAt, demo, start, State.reset, Config.reference, bytes, widthBytes]

/-- The hypothesis of ProviderConfined, and a provider for each of its clauses. -/
theorem witness_ProviderConfined : (call 2 0x10000 5).Inv ∧
    (∃ m log, outcomeOf (.script (.store (.arg 0) .word (.arg 1) .ok0)) (call 2 0x10000 5) = .ok .zero m log ∧
      Memory.read m 0x10000 ≠ (call 2 0x10000 5).readByte 0x10000) ∧
    (∃ m log, outcomeOf (.script (.store (.arg 0) .word (.arg 1) .exit)) (call 2 0x10000 5) = .exit m log) ∧
    outcomeOf (.script (.store (.arg 0) .word (.arg 1) .ok0)) (call 2 0x1000 5) = .trap (.outOfBounds 0x1000) :=
  ⟨inv_of rfl (by decide), ⟨_, _, rfl, by decide⟩, ⟨_, _, rfl⟩, rfl⟩

end Sys2Proof.Machine.Tests
end

