-- ==== Sys2Proof/Proofs/Scope.lean ====
section
/-! Reset's refusals (R6, R380, D52): one equation per refusing branch of `boot`. -/
namespace Sys2Proof.Machine

variable {c : Config} {img : Image} (inputs hints : List Nat) (limit : Nat)

/-- R6: "no run exists for it". -/
theorem boot_of_not_configValid (invalid : ¬ConfigValid c) :
    boot c img inputs hints limit = .refused .invalidConfiguration :=
  if_neg invalid

/-- D52: the configuration is good, the image's segments overlap or leave the address space. -/
theorem boot_of_not_segmentsFit (valid : ConfigValid c)
    (misfit : ¬SegmentsFit c img.code.length (img.data.length + img.bssSize)) :
    boot c img inputs hints limit = .refused .imageDoesNotFit :=
  (if_pos valid).trans (if_neg misfit)

/-- Settles O9: reset checks the configuration first and the image's segments second, and each failed check refuses. -/
theorem invalidRunsRefused : Obligations.InvalidRunsRefused := fun _ _ inputs hints limit =>
  ⟨boot_of_not_configValid inputs hints limit, boot_of_not_segmentsFit inputs hints limit⟩

end Sys2Proof.Machine
end

/-! The register write (R22), and reset (R39, R380): what `boot` starts from, field by field and byte by byte. -/
namespace Sys2Proof.Machine

/-- Settles O30: the invariant gives the register that `rd` names a place in the file, and the bound on every value. -/
theorem registerWrite : Obligations.RegisterWrite := fun s rd v r inv hrd =>
  ⟨readReg_writeReg s rd v r (by rw [inv.length]; exact hrd), readReg_zero s, readReg_lt inv.pos inv.registerBound r⟩

section Initial

variable {c : Config} {img : Image} (inputs hints : List Nat) (limit : Nat)

/-- The accepting branch of `boot`. -/
theorem boot_of_valid (valid : ConfigValid c) (fit : SegmentsFit c img.code.length (img.data.length + img.bssSize)) :
    boot c img inputs hints limit = .next (State.initial c img inputs hints limit) :=
  (if_pos valid).trans (if_pos fit)

theorem readReg_initial (r : Nat) : (State.initial c img inputs hints limit).readReg r = 0 := by
  cases r with
  | zero => rfl
  | succ k => simp [State.readReg, State.initial]

/-- A byte below the data's base or beyond its end stands as the code left it. -/
theorem readByte_initial_of_outside_data (a : Nat) (h : a < c.dataBase ∨ c.dataBase + img.data.length ≤ a) :
    (State.initial c img inputs hints limit).readByte a = Memory.read (placeBytes [] c.codeBase img.code) a :=
  placeBytes_read_outside (placeBytes_wf rfl _ _) _ _ _ h

theorem readByte_initial_data (k : Nat) (h : k < img.data.length) :
    (State.initial c img inputs hints limit).readByte (c.dataBase + k) = img.data[k] :=
  placeBytes_read_inside (placeBytes_wf rfl _ _) _ _ _ h

/-- The data cannot overwrite the code: the segments of an image that fits share no address. -/
theorem readByte_initial_code (fit : SegmentsFit c img.code.length (img.data.length + img.bssSize)) (k : Nat)
    (h : k < img.code.length) :
    (State.initial c img inputs hints limit).readByte (c.codeBase + k) = img.code[k] := by
  have disjoint : apart (c.codeBase, img.code.length) (c.dataBase, img.data.length + img.bssSize) :=
    List.rel_of_pairwise_cons fit.2 (by simp)
  have outside : c.codeBase + k < c.dataBase ∨ c.dataBase + img.data.length ≤ c.codeBase + k := by
    simp only [apart] at disjoint; omega
  rw [readByte_initial_of_outside_data _ _ _ _ outside]
  exact placeBytes_read_inside rfl _ _ _ h

theorem readByte_initial_elsewhere (a : Nat) (hc : a < c.codeBase ∨ c.codeBase + img.code.length ≤ a)
    (hd : a < c.dataBase ∨ c.dataBase + img.data.length ≤ a) :
    (State.initial c img inputs hints limit).readByte a = 0 := by
  rw [readByte_initial_of_outside_data _ _ _ _ hd]
  exact placeBytes_read_outside rfl _ _ _ hc

end Initial

/-- Settles O8: the fields are those of `State.initial`, the bytes those the two placements left. -/
theorem resetValues : Obligations.ResetValues := fun c img inputs hints limit valid fit =>
  ⟨State.initial c img inputs hints limit, boot_of_valid inputs hints limit valid fit, rfl, rfl, rfl,
    readReg_initial inputs hints limit, rfl, readByte_initial_code inputs hints limit fit,
    readByte_initial_data inputs hints limit, readByte_initial_elsewhere inputs hints limit,
    rfl, rfl, rfl, rfl, rfl, rfl, rfl, rfl, rfl, rfl, rfl⟩

/-- The reference `P` is the Mersenne number `2 ^ 31 - 1`, prime by the Lucas-Lehmer test. -/
theorem reference_P_prime : Config.reference.P.Prime :=
  lucas_lehmer_sufficiency 31 (by norm_num) (by norm_num)

/-- The reference configuration breaks no constraint (R6). -/
theorem reference_configValid : ConfigValid Config.reference := ⟨⟨reference_P_prime, by decide⟩, by decide⟩

/-- Settles O58: the reference configuration with an empty image is accepted, and the state it starts from is
`State.reset`. -/
theorem resetIsBoot : Obligations.ResetIsBoot :=
  ⟨rfl, boot_of_valid [] [] 1000 reference_configValid (by decide)⟩

end Sys2Proof.Machine

/-! The invariant of a run is kept by every step: a trap changes no field it speaks of but the counts, and an `Effect`
keeps each clause. -/
namespace Sys2Proof.Machine

/-- An access the memory unit allows stays below `2 ^ W`, since the data, heap and stack segments do (D16, D52). -/
theorem State.Inv.inData_le {s : State} (inv : s.Inv) {a n : Nat} (h : s.inData a n = true) : a + n ≤ 2 ^ s.cfg.W := by
  have fit := inv.segmentsFit.1
  simp only [segments, List.forall_mem_cons] at fit
  obtain ⟨-, data, heap, stack, -⟩ := fit
  rcases (inData_iff s a n).mp h with h | h | h <;> omega

/-- A fetch that succeeds found the pc aligned (R141). -/
theorem pc_aligned_of_fetchDecode {s : State} {i : Instr} (h : s.fetchDecode = .ok i) : s.pc % 4 = 0 := by
  by_contra misaligned
  simp [State.fetchDecode, State.fetch, misaligned] at h

/-- The next instruction's address is aligned where the pc is, whether or not it wraps (R25). -/
theorem nextPc_aligned {s : State} (hW : 16 ≤ s.cfg.W) (h : s.pc % 4 = 0) : s.nextPc % 4 = 0 := by
  have four : 4 ∣ 2 ^ s.cfg.W := pow_dvd_pow 2 (show 2 ≤ s.cfg.W by omega)
  rw [State.nextPc, Nat.mod_mod_of_dvd _ four]
  omega

theorem nextPc_lt (s : State) : s.nextPc < 2 ^ s.cfg.W := Nat.mod_lt _ (by positivity)

/-- A buffer that grows by a register's value at most stays below `P` (R30). -/
theorem append_readReg_bound {s : State} (inv : s.Inv) {old new : List Nat}
    (h : new = old ∨ ∃ r, new = old ++ [s.readReg r]) (bound : ∀ v ∈ old, v < s.cfg.P) : ∀ v ∈ new, v < s.cfg.P := by
  rcases h with rfl | ⟨r, rfl⟩
  · exact bound
  · simp only [List.forall_mem_append, List.forall_mem_singleton]
    exact ⟨bound, readReg_lt inv.pos inv.registerBound r⟩

/-- A trap from a running state keeps the invariant (R146). -/
theorem takeTrap_inv {s : State} (inv : s.Inv) (running : s.status = .running) (i : Option Instr) (r : TrapReason) :
    (s.takeTrap i r).Inv where
  config := by simpa using inv.config
  segmentsFit := by simpa using inv.segmentsFit
  registerCount := by simpa using inv.registerCount
  registerBound := by simpa using inv.registerBound
  memoryForm := by simpa using inv.memoryForm
  memoryBound := by simpa using inv.memoryBound
  pcAligned := by simp
  inputCursor := by simpa using inv.inputCursor
  hintCursor := by simpa using inv.hintCursor
  outputBound := by simpa using inv.outputBound
  commitmentBound := by simpa using inv.commitmentBound
  rowsCounted := by simp [inv.rowsCounted]
  countBound := by simpa using inv.runningBelowLimit running
  runningBelowLimit := by simp

/-- A cycle left Running started from an effect that left it Running, below the limit (R148). -/
theorem running_of_retire {i : Instr} {acc : MemAccess} {s t : State} (h : (s.retire i acc t).status = .running) :
    t.status = .running ∧ t.cycleCount + 1 < t.limit := by
  rw [retire_status] at h
  split at h
  · cases h
  · exact ⟨h, by simp_all⟩

/-- The end of a cycle keeps the invariant (R147 to R149), when the pc it started from was aligned. -/
theorem retire_inv {s t : State} (inv : s.Inv) (running : s.status = .running) (aligned : s.pc % 4 = 0) (e : Effect s t)
    (i : Instr) (acc : MemAccess) : (s.retire i acc t).Inv where
  config := by simpa [e.cfg] using inv.config
  segmentsFit := by simpa [e.cfg, e.codeSize, e.dataSize] using inv.segmentsFit
  registerCount := by simpa [e.cfg, e.length] using inv.registerCount
  registerBound := by simpa [e.cfg] using e.bound inv.pos inv.registerBound
  memoryForm := by
    obtain ⟨log, effect⟩ := e.memory
    simpa using effect.wf inv.memoryForm
  memoryBound := by
    obtain ⟨log, effect⟩ := e.memory
    simpa only [retire_mem, retire_cfg, e.cfg] using effect.bound _ (fun _ _ => inv.inData_le) inv.memoryBound
  pcAligned := by
    intro h _
    simp only [retire_pc, retire_cfg, e.cfg]
    rcases e.pc with next | target | halted
    · rw [next]; exact ⟨nextPc_aligned inv.config.1.2.2.2.1 aligned, nextPc_lt s⟩
    · exact target
    · rw [(running_of_retire h).1] at halted; cases halted
  inputCursor := by
    have := inv.inputCursor; have := e.inputCursor
    simp only [retire_inputCursor, retire_inputs, e.inputs]; omega
  hintCursor := by
    have := inv.hintCursor; have := e.hintCursor
    simp only [retire_hintCursor, retire_hints, e.hints]; omega
  outputBound := by
    simpa only [retire_outputs, retire_cfg, e.cfg] using append_readReg_bound inv e.outputs inv.outputBound
  commitmentBound := by
    simpa only [retire_commitments, retire_cfg, e.cfg] using append_readReg_bound inv e.commitments inv.commitmentBound
  rowsCounted := by simp [e.cycleCount, inv.rowsCounted]
  countBound := by simpa [e.cycleCount, e.limit] using inv.runningBelowLimit running
  runningBelowLimit := fun h => by simpa using (running_of_retire h).2

/-- Executing an instruction from an aligned pc keeps the invariant. -/
theorem exec_inv {i : Instr} {s t : State} (inv : s.Inv) (running : s.status = .running) (aligned : s.pc % 4 = 0)
    (h : exec i s = .next t) : t.Inv := by
  have ends := exec_ends i s
  rw [h] at ends
  cases ends with
  | trapped r _ => exact takeTrap_inv inv running _ r
  | retired acc t e => exact retire_inv inv running aligned e i acc

/-- Settles O12: a step is a trap of fetch or decode, or an instruction at the aligned pc its fetch asked for. -/
theorem stepKeepsInvariant : Obligations.StepKeepsInvariant := by
  intro s t inv h
  have running := running_of_next h
  rcases step_cases running with ⟨r, -, trapped⟩ | ⟨i, decoded, executed⟩
  · cases trapped.symm.trans h
    exact takeTrap_inv inv running none r
  · exact exec_inv inv running (pc_aligned_of_fetchDecode decoded) (executed.symm.trans h)

end Sys2Proof.Machine

/-! What a cycle leaves as it was: the registers an instruction does not name as its destination (R24), the cursors
(R29) and the output buffers (R30); and what it appends (R32, R70). -/
namespace Sys2Proof.Machine

/-- What the instruction `i` keeps between `s` and `t`, each part unless `i` is the one instruction that may change it. -/
structure Frame (i : Instr) (s t : State) : Prop where
  registers : ∀ r ∉ destinations i, t.readReg r = s.readReg r
  inputCursor : (∀ rd, i ≠ .read rd) → t.inputCursor = s.inputCursor
  hintCursor : (∀ rd, i ≠ .hint rd) → t.hintCursor = s.hintCursor
  outputs : (∀ rs1, i ≠ .write rs1) → t.outputs = s.outputs
  commitments : (∀ rs1, i ≠ .commit rs1) → t.commitments = s.commitments

/-- The instruction `i` ends its cycle from `s`, with a trap or with a state that `Frame` allows. -/
inductive EndsFramed (i : Instr) (s : State) : Result → Prop
  | trapped (r : TrapReason) : EndsFramed i s (.next (s.takeTrap (some i) r))
  | retired (acc : MemAccess) (t : State) (f : Frame i s t) : EndsFramed i s (.next (s.retire i acc t))

/-- A register write is seen by no other register, whether or not the register written exists. -/
theorem readReg_writeReg_of_ne {s : State} {rd v r : Nat} (h : r ≠ rd) : (s.writeReg rd v).readReg r = s.readReg r := by
  cases rd with
  | zero => rfl
  | succ j =>
    cases r with
    | zero => rfl
    | succ k =>
      have : j ≠ k := by omega
      simp [State.readReg, List.getD_eq_getElem?_getD, this]

theorem readReg_writeResults_of_not_mem {s : State} {res : Results} {r : Nat} (h : r ∉ [10, 11]) :
    (s.writeResults res).readReg r = s.readReg r := by
  simp only [List.mem_cons, List.not_mem_nil, or_false, not_or] at h
  obtain ⟨h10, h11⟩ := h
  cases res with
  | zero => rfl
  | one => exact readReg_writeReg_of_ne h10
  | two => exact (readReg_writeReg_of_ne h11).trans (readReg_writeReg_of_ne h10)

/-- The base case of `Frame`: a write to the destination and any new pc. -/
theorem Frame.writeReg {i : Instr} {rd : Nat} (hrd : rd ∈ destinations i) (s : State) (v pc : Nat) :
    Frame i s { s.writeReg rd v with pc := pc } where
  registers := fun _ hr => readReg_writeReg_of_ne (ne_of_mem_of_not_mem hrd hr).symm
  inputCursor := fun _ => by simp
  hintCursor := fun _ => by simp
  outputs := fun _ => by simp
  commitments := fun _ => by simp

/-- Nothing `Frame` speaks of, but any new pc. -/
theorem Frame.skip (i : Instr) (s : State) (pc : Nat) : Frame i s { s with pc := pc } :=
  ⟨fun _ _ => rfl, fun _ => rfl, fun _ => rfl, fun _ => rfl, fun _ => rfl⟩

section Operations

variable {i : Instr} (s : State)

theorem EndsFramed.writeResult {rd : Nat} (hrd : rd ∈ destinations i) (v : Nat) :
    EndsFramed i s (writeResult i rd v s) := .retired _ _ (.writeReg hrd s v _)

theorem EndsFramed.complete : EndsFramed i s (complete i s s) := .retired _ _ (.skip i s _)

theorem EndsFramed.divide {rd : Nat} (hrd : rd ∈ destinations i) (rs2 v : Nat) :
    EndsFramed i s (divide i rd rs2 v s) := by
  rcases divide_cases (rfl : Machine.divide i rd rs2 v s = _) with ⟨-, h⟩ | ⟨-, h⟩ <;> rw [h]
  · exact .trapped _
  · exact .writeResult s hrd v

theorem EndsFramed.requirePredicate (b : Bool) (r : TrapReason) : EndsFramed i s (requirePredicate i b r s) := by
  rcases requirePredicate_cases (rfl : Machine.requirePredicate i b r s = _) with ⟨-, h⟩ | ⟨-, h⟩ <;> rw [h]
  · exact .complete s
  · exact .trapped _

theorem EndsFramed.load {rd : Nat} (hrd : rd ∈ destinations i) (rs1 : Nat) (imm : Int) (w : Width) (ext : Nat → Nat) :
    EndsFramed i s (load i rd rs1 imm w ext s) := by
  rcases load_cases (rfl : Machine.load i rd rs1 imm w ext s = _) with ⟨r, -, h⟩ | ⟨-, h⟩ <;> rw [h]
  · exact .trapped r
  · exact .retired _ _ { Frame.writeReg hrd s _ s.nextPc with }

theorem EndsFramed.store (rs1 rs2 : Nat) (imm : Int) (w : Width) : EndsFramed i s (store i rs1 rs2 imm w s) := by
  rcases store_cases (rfl : Machine.store i rs1 rs2 imm w s = _) with ⟨r, -, h⟩ | ⟨-, h⟩ <;> rw [h]
  · exact .trapped r
  · exact .retired _ _ { Frame.skip i s s.nextPc with }

theorem EndsFramed.jump {rd : Nat} (hrd : rd ∈ destinations i) (target v : Nat) :
    EndsFramed i s (transfer i target s (s.writeReg rd v)) := by
  rcases transfer_cases (rfl : transfer i target s (s.writeReg rd v) = _) with ⟨-, h⟩ | ⟨-, h⟩ <;> rw [h]
  · exact .trapped _
  · exact .retired _ _ (.writeReg hrd s v target)

theorem EndsFramed.branch (c : Bool) (offset : Int) : EndsFramed i s (branch i c offset s) := by
  rcases branch_cases (rfl : Machine.branch i c offset s = _) with ⟨-, h⟩ | ⟨-, h⟩ <;> rw [h]
  · exact .complete s
  · rcases transfer_cases (rfl : transfer i (s.relativeTarget offset) s s = _) with ⟨-, h⟩ | ⟨-, h⟩ <;> rw [h]
    · exact .trapped _
    · exact .retired _ _ (.skip i s _)

theorem EndsFramed.ecall : EndsFramed .ecall s (execEcall s) := by
  rcases execEcall_cases (rfl : execEcall s = _) with ⟨-, h⟩ | ⟨p, -, ⟨res, m, log, -, h⟩ | ⟨r, -, h⟩ | ⟨c, -, h⟩ |
    ⟨m, log, -, h⟩⟩ <;> rw [h]
  · exact .trapped _
  · exact .retired _ _
      { registers := fun r hr => readReg_writeResults_of_not_mem hr
        inputCursor := fun _ => by simp
        hintCursor := fun _ => by simp
        outputs := fun _ => by simp
        commitments := fun _ => by simp }
  · exact .trapped r
  · exact .trapped _
  · exact .retired _ _ { Frame.skip .ecall s s.pc with }

/-- Every instruction ends its cycle inside its frame. -/
theorem exec_endsFramed (i : Instr) : EndsFramed i s (exec i s) := by
  cases i with
  | add | sub | sll | slt | sltu | xor | srl | sra | or | and | mul | addi | slti | sltiu | xori | ori | andi
  | slli | srli | srai | lui | auipc | fadd | fsub | fmul | fneg =>
    exact .writeResult s (List.mem_singleton_self _) _
  | div | divu | rem | remu => exact .divide s (List.mem_singleton_self _) _ _
  | lb | lh | lw | lbu | lhu =>
    simp only [exec, execLb, execLh, execLw, execLbu, execLhu]
    exact .load s (List.mem_singleton_self _) _ _ _ _
  | sb | sh | sw => exact .store s _ _ _ _
  | beq | bne | blt | bge | bltu | bgeu => exact .branch s _ _
  | jal | jalr => exact .jump s (List.mem_singleton_self _) _ _
  | ecall => exact .ecall s
  | ebreak => exact .trapped _
  | halt => exact .retired _ _ { Frame.skip .halt s s.pc with }
  | debug => exact .complete s
  | finv =>
    simp only [exec, execFinv]; split
    · exact .trapped _
    · exact .writeResult s (List.mem_singleton_self _) _
  | read rd =>
    simp only [exec, execRead]; split
    · exact .trapped _
    · exact .retired _ _
        { Frame.writeReg (List.mem_singleton_self rd) s _ s.nextPc with
          inputCursor := fun notRead => absurd rfl (notRead rd) }
  | hint rd =>
    simp only [exec, execHint]; split
    · exact .trapped _
    · exact .retired _ _
        { Frame.writeReg (List.mem_singleton_self rd) s _ s.nextPc with
          hintCursor := fun notHint => absurd rfl (notHint rd) }
  | write rs1 =>
    exact .retired _ _ { Frame.skip (.write rs1) s s.nextPc with outputs := fun notWrite => absurd rfl (notWrite rs1) }
  | commit rs1 =>
    exact .retired _ _
      { Frame.skip (.commit rs1) s s.nextPc with commitments := fun notCommit => absurd rfl (notCommit rs1) }
  | assertEq | assertNe | assertZero | rangeCheck => exact .requirePredicate s _ _

end Operations

/-- The frame of an instruction, whichever way its cycle ends. -/
theorem exec_frame {i : Instr} {s t : State} (h : exec i s = .next t) : Frame i s t := by
  have ends := exec_endsFramed s i
  rw [h] at ends
  cases ends with
  | trapped r =>
    exact ⟨fun _ _ => readReg_congr (by simp) _, fun _ => by simp, fun _ => by simp, fun _ => by simp, fun _ => by simp⟩
  | retired acc t f =>
    exact ⟨fun r hr => (readReg_congr (by simp) r).trans (f.registers r hr), by simpa using f.inputCursor,
      by simpa using f.hintCursor, by simpa using f.outputs, by simpa using f.commitments⟩

/-- Settles O25: the frame leaves every register but the destinations as it was. -/
theorem onlyDestinationsWritten : Obligations.OnlyDestinationsWritten := fun _ _ _ r _ h hr =>
  (exec_frame h).registers r hr

/-- Settles O27: the frame leaves a buffer to the one instruction that appends to it. -/
theorem onlyWriteCommitAppend : Obligations.OnlyWriteCommitAppend := fun _ _ _ h =>
  ⟨(exec_frame h).outputs, (exec_frame h).commitments⟩

/-- A cycle moves each cursor by one at most, and never back (R29). -/
theorem exec_cursors {i : Instr} {s t : State} (h : exec i s = .next t) :
    (t.inputCursor = s.inputCursor ∨ t.inputCursor = s.inputCursor + 1) ∧
      (t.hintCursor = s.hintCursor ∨ t.hintCursor = s.hintCursor + 1) := by
  have ends := exec_ends i s
  rw [h] at ends
  cases ends with
  | trapped => simp
  | retired acc t e =>
    simp only [retire_inputCursor, retire_hintCursor]
    exact ⟨e.inputCursor.imp_right And.left, e.hintCursor.imp_right And.left⟩

/-- Settles O26: the frame says which instruction moves a cursor, `exec_cursors` how far. -/
theorem onlyReadHintMoveCursors : Obligations.OnlyReadHintMoveCursors := by
  intro i s t h
  have := exec_cursors h
  exact ⟨(exec_frame h).inputCursor, (exec_frame h).hintCursor, by omega⟩

/-- A buffer that grew by one element at most. -/
theorem exists_append_of_growth {old new : List Nat} {f : Nat → Nat} (h : new = old ∨ ∃ r, new = old ++ [f r]) :
    ∃ suffix, new = old ++ suffix ∧ suffix.length ≤ 1 := by
  rcases h with rfl | ⟨r, rfl⟩
  · exact ⟨[], by simp⟩
  · exact ⟨[f r], rfl, le_rfl⟩

/-- Settles O22: a trap appends its row alone, a completed cycle its row and what its `Effect` appended. -/
theorem appendOnly : Obligations.AppendOnly := by
  intro s t h
  rcases step_forms (running_of_next h) with ⟨i, r, trapped, -⟩ | ⟨i, acc, t', retired, e⟩
  · cases trapped.symm.trans h
    exact ⟨⟨_, takeTrap_trace i r s⟩, ⟨[], by simp⟩, ⟨[], by simp⟩, ⟨[], by simp⟩⟩
  · cases retired.symm.trans h
    simp only [retire_outputs, retire_commitments, retire_accessLog]
    exact ⟨⟨_, retire_trace i acc s t'⟩, exists_append_of_growth e.outputs, exists_append_of_growth e.commitments, e.log⟩

end Sys2Proof.Machine

/-! Noninterference (R33, R28, R70). A program cannot read the limit, the cycle count, the outputs, the commitments, the
trace and the access log. `withHistory` replaces just these, so every operand of an instruction is the same by
definition, and each operation ends its cycle alike in a state and in the state with another history. -/
namespace Sys2Proof.Machine

/-- `s` with everything a program cannot read taken from `h`. -/
def State.withHistory (s h : State) : State :=
  { s with
    limit := h.limit
    cycleCount := h.cycleCount
    outputs := h.outputs
    commitments := h.commitments
    trace := h.trace
    accessLog := h.accessLog }

@[simp] theorem withHistory_cfg (s h : State) : (s.withHistory h).cfg = s.cfg := rfl

@[simp] theorem withHistory_codeSize (s h : State) : (s.withHistory h).codeSize = s.codeSize := rfl

@[simp] theorem withHistory_dataSize (s h : State) : (s.withHistory h).dataSize = s.dataSize := rfl

@[simp] theorem withHistory_inputs (s h : State) : (s.withHistory h).inputs = s.inputs := rfl

@[simp] theorem withHistory_hints (s h : State) : (s.withHistory h).hints = s.hints := rfl

@[simp] theorem withHistory_regs (s h : State) : (s.withHistory h).regs = s.regs := rfl

@[simp] theorem withHistory_pc (s h : State) : (s.withHistory h).pc = s.pc := rfl

@[simp] theorem withHistory_mem (s h : State) : (s.withHistory h).mem = s.mem := rfl

@[simp] theorem withHistory_status (s h : State) : (s.withHistory h).status = s.status := rfl

@[simp] theorem withHistory_inputCursor (s h : State) : (s.withHistory h).inputCursor = s.inputCursor := rfl

@[simp] theorem withHistory_hintCursor (s h : State) : (s.withHistory h).hintCursor = s.hintCursor := rfl

@[simp] theorem withHistory_limit (s h : State) : (s.withHistory h).limit = h.limit := rfl

@[simp] theorem withHistory_cycleCount (s h : State) : (s.withHistory h).cycleCount = h.cycleCount := rfl

@[simp] theorem withHistory_outputs (s h : State) : (s.withHistory h).outputs = h.outputs := rfl

@[simp] theorem withHistory_commitments (s h : State) : (s.withHistory h).commitments = h.commitments := rfl

@[simp] theorem withHistory_trace (s h : State) : (s.withHistory h).trace = h.trace := rfl

@[simp] theorem withHistory_accessLog (s h : State) : (s.withHistory h).accessLog = h.accessLog := rfl

/-- Agreeing states of one status differ in their history only. -/
theorem Agree.eq_withHistory {s h : State} (agree : Agree s h) (status : h.status = s.status) :
    h = s.withHistory h := by
  obtain ⟨⟩ := s
  obtain ⟨⟩ := h
  obtain ⟨rfl, rfl, rfl, rfl, rfl, rfl, rfl, rfl, rfl, rfl⟩ := agree
  subst status
  rfl

/-! ### What an instruction reads and writes does not depend on the history -/

theorem fetchDecode_withHistory (s h : State) : (s.withHistory h).fetchDecode = s.fetchDecode := rfl

theorem effectiveAddress_withHistory (s h : State) (rs1 : Nat) (imm : Int) :
    (s.withHistory h).effectiveAddress rs1 imm = s.effectiveAddress rs1 imm := rfl

theorem checkData_withHistory (s h : State) (a n : Nat) : (s.withHistory h).checkData a n = s.checkData a n := rfl

theorem syscallRegister_withHistory (s h : State) : (s.withHistory h).syscallRegister = s.syscallRegister := rfl

theorem syscallArgs_withHistory (s h : State) : (s.withHistory h).syscallArgs = s.syscallArgs := rfl

theorem readReg_withHistory (s h : State) (r : Nat) : (s.withHistory h).readReg r = s.readReg r := rfl

theorem writeReg_withHistory (s h : State) (rd v : Nat) :
    (s.withHistory h).writeReg rd v = (s.writeReg rd v).withHistory h := by
  cases rd <;> rfl

theorem writeResults_withHistory (s h : State) (res : Results) :
    (s.withHistory h).writeResults res = (s.writeResults res).withHistory h := by
  cases res <;> simp only [State.writeResults, writeReg_withHistory]

/-! ### The relation between the two ends of a cycle -/

/-- `t`, reached from `s`, and `u`, reached from `s` with the history of `h`, agree, and the same was output. -/
structure Alike (s h t u : State) : Prop where
  agree : Agree t u
  outputs : ∃ o, t.outputs = s.outputs ++ o ∧ u.outputs = h.outputs ++ o
  commitments : ∃ c, t.commitments = s.commitments ++ c ∧ u.commitments = h.commitments ++ c

/-- Nothing was output, and the two states agree by the way they are written. -/
theorem Alike.of_no_output {s h t u : State} (outputs : t.outputs = s.outputs) (outputs' : u.outputs = h.outputs)
    (commitments : t.commitments = s.commitments) (commitments' : u.commitments = h.commitments)
    (agree : Agree t u := by constructor <;> rfl) : Alike s h t u :=
  ⟨agree, ⟨[], by simp [outputs, outputs']⟩, ⟨[], by simp [commitments, commitments']⟩⟩

/-- A trap outputs nothing and changes nothing a program can read but the status (R146). -/
theorem Alike.takeTrap (s h : State) (i : Option Instr) (r : TrapReason) :
    Alike s h (s.takeTrap i r) ((s.withHistory h).takeTrap i r) :=
  .of_no_output (by simp) (by simp) (by simp) (by simp) (by constructor <;> simp)

/-- The end of a cycle keeps two states alike (R147 to R149). -/
theorem Alike.retire {s h t u : State} (alike : Alike s h t u) (i : Instr) (acc : MemAccess) :
    Alike s h (s.retire i acc t) ((s.withHistory h).retire i acc u) where
  agree := by
    obtain ⟨⟩ := alike.agree
    constructor <;> simpa
  outputs := by simpa using alike.outputs
  commitments := by simpa using alike.commitments

/-- The instruction `i` traps for one reason in `s` and in `s` with the history of `h`, or ends both cycles alike. -/
inductive EndsAlike (i : Instr) (s h : State) : Result → Result → Prop
  | trapped (r : TrapReason) :
      EndsAlike i s h (.next (s.takeTrap (some i) r)) (.next ((s.withHistory h).takeTrap (some i) r))
  | retired (acc : MemAccess) {t u : State} (alike : Alike s h t u) (status : u.status = t.status) :
      EndsAlike i s h (.next (s.retire i acc t)) (.next ((s.withHistory h).retire i acc u))

/-- A condition on what a program can read takes both states the same way. -/
theorem EndsAlike.ite {i : Instr} {s h : State} {c : Prop} [Decidable c] {o₁ o₂ p₁ p₂ : Result}
    (yes : EndsAlike i s h o₁ o₂) (no : EndsAlike i s h p₁ p₂) :
    EndsAlike i s h (if c then o₁ else p₁) (if c then o₂ else p₂) := by
  split
  · exact yes
  · exact no

/-! ### Each operation ends its cycle alike -/

section Operations

variable {i : Instr} (s h : State)

/-- A register write and any new pc. -/
theorem EndsAlike.retire_writeReg (rd v pc : Nat) :
    EndsAlike i s h (.next (s.retire i MemAccess.none { s.writeReg rd v with pc := pc }))
      (.next ((s.withHistory h).retire i MemAccess.none { (s.withHistory h).writeReg rd v with pc := pc })) := by
  rw [writeReg_withHistory]
  exact .retired _ (.of_no_output (by simp) rfl (by simp) rfl) rfl

theorem EndsAlike.writeResult (rd v : Nat) :
    EndsAlike i s h (writeResult i rd v s) (writeResult i rd v (s.withHistory h)) :=
  .retire_writeReg s h rd v s.nextPc

theorem EndsAlike.complete : EndsAlike i s h (complete i s s) (complete i (s.withHistory h) (s.withHistory h)) :=
  .writeResult s h 0 0

theorem EndsAlike.divide (rd rs2 v : Nat) :
    EndsAlike i s h (divide i rd rs2 v s) (divide i rd rs2 v (s.withHistory h)) :=
  .ite (c := s.regU rs2 = 0) (.trapped _) (.writeResult s h rd v)

theorem EndsAlike.requirePredicate (b : Bool) (r : TrapReason) :
    EndsAlike i s h (requirePredicate i b r s) (requirePredicate i b r (s.withHistory h)) :=
  .ite (.complete s h) (.trapped r)

theorem EndsAlike.jump (rd target v : Nat) :
    EndsAlike i s h (transfer i target s (s.writeReg rd v))
      (transfer i target (s.withHistory h) ((s.withHistory h).writeReg rd v)) :=
  .ite (.trapped _) (.retire_writeReg s h rd v target)

theorem EndsAlike.branch (c : Bool) (offset : Int) :
    EndsAlike i s h (branch i c offset s) (branch i c offset (s.withHistory h)) :=
  .ite (.jump s h 0 (s.relativeTarget offset) 0) (.complete s h)

theorem EndsAlike.load (rd rs1 : Nat) (imm : Int) (w : Width) (ext : Nat → Nat) :
    EndsAlike i s h (load i rd rs1 imm w ext s) (load i rd rs1 imm w ext (s.withHistory h)) := by
  simp only [Machine.load, effectiveAddress_withHistory, checkData_withHistory, writeReg_withHistory]
  split
  · exact .trapped _
  · exact .retired _ (.of_no_output (by simp) rfl (by simp) rfl) rfl

theorem EndsAlike.store (rs1 rs2 : Nat) (imm : Int) (w : Width) :
    EndsAlike i s h (store i rs1 rs2 imm w s) (store i rs1 rs2 imm w (s.withHistory h)) := by
  simp only [Machine.store, effectiveAddress_withHistory, checkData_withHistory]
  split
  · exact .trapped _
  · exact .retired _ (.of_no_output rfl rfl rfl rfl) rfl

theorem EndsAlike.read (rd : Nat) : EndsAlike (.read rd) s h (execRead rd s) (execRead rd (s.withHistory h)) := by
  simp only [execRead, withHistory_inputs, withHistory_inputCursor, writeReg_withHistory]
  split
  · exact .trapped _
  · exact .retired _ (.of_no_output (by simp) rfl (by simp) rfl) (by simp)

theorem EndsAlike.hint (rd : Nat) : EndsAlike (.hint rd) s h (execHint rd s) (execHint rd (s.withHistory h)) := by
  simp only [execHint, withHistory_hints, withHistory_hintCursor, writeReg_withHistory]
  split
  · exact .trapped _
  · exact .retired _ (.of_no_output (by simp) rfl (by simp) rfl) (by simp)

/-- Two outcomes of a provider's course, the same but for the log entries, which carry the cycle count. -/
inductive SameButLog : ProviderOutcome → ProviderOutcome → Prop
  | ok (r : Results) (m : List Host.Cell) (log log' : List Access) : SameButLog (.ok r m log) (.ok r m log')
  | trap (r : TrapReason) : SameButLog (.trap r) (.trap r)
  | err (code : Nat) : SameButLog (.err code) (.err code)
  | exit (m : List Host.Cell) (log log' : List Access) : SameButLog (.exit m log) (.exit m log')

theorem runProc_withHistory (p : Proc) :
    ∀ m log log', SameButLog (runProc s p m log) (runProc (s.withHistory h) p m log') := by
  induction p with
  | ok r => exact fun m log log' => .ok r m log log'
  | err code => exact fun _ _ _ => .err code
  | exit => exact fun m log log' => .exit m log log'
  | load addr w next ih =>
    intro m log log'
    simp only [runProc, checkData_withHistory]
    split
    · exact .trap _
    · exact ih _ _ _ _
  | store addr w value next ih =>
    intro m log log'
    simp only [runProc, checkData_withHistory]
    split
    · exact .trap _
    · exact ih _ _ _

theorem EndsAlike.applyOutcome {o o' : ProviderOutcome} (same : SameButLog o o') :
    EndsAlike .ecall s h (applyOutcome s o) (applyOutcome (s.withHistory h) o') := by
  cases same with
  | ok r m log log' =>
    simp only [Machine.applyOutcome, writeResults_withHistory]
    exact .retired _ (.of_no_output (by simp) rfl (by simp) rfl) rfl
  | trap r => exact .trapped r
  | err code => exact .trapped _
  | exit m log log' => exact .retired _ (.of_no_output rfl rfl rfl rfl) rfl

theorem EndsAlike.ecall : EndsAlike .ecall s h (execEcall s) (execEcall (s.withHistory h)) := by
  simp only [execEcall, withHistory_cfg, syscallRegister_withHistory, readReg_withHistory]
  split
  · exact .trapped _
  · exact .applyOutcome s h (runProc_withHistory s h _ _ _ _)

/-- Every instruction ends its cycle alike, whatever the history. -/
theorem exec_endsAlike (i : Instr) : EndsAlike i s h (exec i s) (exec i (s.withHistory h)) := by
  cases i with
  | add | sub | sll | slt | sltu | xor | srl | sra | or | and | mul | addi | slti | sltiu | xori | ori | andi
  | slli | srli | srai | lui | auipc | fadd | fsub | fmul | fneg => exact .writeResult s h _ _
  | div | divu | rem | remu => exact .divide s h _ _ _
  | lb | lh | lw | lbu | lhu =>
    simp only [exec, execLb, execLh, execLw, execLbu, execLhu]
    exact .load s h _ _ _ _ _
  | sb | sh | sw => exact .store s h _ _ _ _
  | beq | bne | blt | bge | bltu | bgeu => exact .branch s h _ _
  | jal | jalr => exact .jump s h _ _ _
  | ecall => exact .ecall s h
  | ebreak => exact .trapped _
  | halt => exact .retired _ (.of_no_output rfl rfl rfl rfl) rfl
  | debug => exact .complete s h
  | finv _ rs1 => exact .ite (c := s.readReg rs1 = 0) (.trapped _) (.writeResult s h _ _)
  | read rd => exact .read s h rd
  | hint rd => exact .hint s h rd
  | write rs1 =>
    exact .retired _ ⟨by constructor <;> rfl, ⟨[s.readReg rs1], rfl, rfl⟩, ⟨[], by simp⟩⟩ rfl
  | commit rs1 =>
    exact .retired _ ⟨by constructor <;> rfl, ⟨[], by simp⟩, ⟨[s.readReg rs1], rfl, rfl⟩⟩ rfl
  | assertEq | assertNe | assertZero | rangeCheck => exact .requirePredicate s h _ _

end Operations

/-! ### The step -/

theorem step_of_fetchDecode_error {s : State} {r : TrapReason} (running : s.status = .running)
    (fetched : s.fetchDecode = .error r) : step s = .next (s.takeTrap none r) := by
  simp only [step, running, fetched]

theorem step_of_fetchDecode_ok {s : State} {i : Instr} (running : s.status = .running)
    (fetched : s.fetchDecode = .ok i) : step s = exec i s := by
  simp only [step, running, fetched]

/-- The status of two states is the same, unless the limit stopped one of them. -/
def SameStatusOrLimit (t u : State) : Prop :=
  t.status = u.status ∨ t.status = .trapped .cycleLimitExceeded ∨ u.status = .trapped .cycleLimitExceeded

/-- The limit is the only part of the history that the end of a cycle looks at (R148). -/
theorem retire_sameStatusOrLimit {s s' t u : State} (status : u.status = t.status) (i : Instr) (acc : MemAccess) :
    SameStatusOrLimit (s.retire i acc t) (s'.retire i acc u) := by
  simp only [SameStatusOrLimit, retire_status, status]
  split_ifs <;> simp

theorem EndsAlike.next {i : Instr} {s h : State} {o o' : Result} (ends : EndsAlike i s h o o') {t : State}
    (ho : o = .next t) :
    ∃ u, o' = .next u ∧ Alike s h t u ∧ SameStatusOrLimit t u := by
  cases ends with
  | trapped r =>
    cases ho
    exact ⟨_, rfl, .takeTrap s h _ r, .inl (by simp)⟩
  | retired acc alike status =>
    cases ho
    exact ⟨_, rfl, alike.retire i acc, retire_sameStatusOrLimit status i acc⟩

/-- One step from a running state and from the same state with another history. -/
theorem step_withHistory {s t : State} (h : State) (running : s.status = .running) (stepped : step s = .next t) :
    ∃ u, step (s.withHistory h) = .next u ∧ Alike s h t u ∧ SameStatusOrLimit t u := by
  cases fetched : s.fetchDecode with
  | error r =>
    rw [step_of_fetchDecode_error running fetched] at stepped
    cases stepped
    exact ⟨_, step_of_fetchDecode_error running fetched, .takeTrap s h none r, .inl (by simp)⟩
  | ok i =>
    rw [step_of_fetchDecode_ok running fetched] at stepped
    rw [step_of_fetchDecode_ok (s := s.withHistory h) running fetched]
    exact (exec_endsAlike s h i).next stepped

/-- Settles O28: agreeing running states are one state with two histories. -/
theorem outputsNeverRead : Obligations.OutputsNeverRead := by
  intro s₁ s₂ t₁ agree running₁ running₂ stepped
  have same := agree.eq_withHistory (running₂.trans running₁.symm)
  obtain ⟨t₂, stepped₂, ⟨agree', ⟨o, ho₁, ho₂⟩, ⟨c, hc₁, hc₂⟩⟩, status⟩ := step_withHistory s₂ running₁ stepped
  rw [← same] at stepped₂
  exact ⟨t₂, o, c, stepped₂, agree', ho₁, ho₂, hc₁, hc₂, status⟩

end Sys2Proof.Machine

/-! Memory (R60 to R80). A write of `n` bytes and a read of them (R66, R67); the accesses of a syscall provider (R79,
R80, R332); and what a step can write: data, heap and stack bytes, so through a whole run no code byte (R62, R69). -/
namespace Sys2Proof.Machine

/-! ### A write and a read of the same bytes -/

/-- A write's low byte is read first, and what is left of the value stands above it. -/
theorem memRead_memWrite {m : List Host.Cell} (wf : Memory.wf m = true) (a n v : Nat) :
    memRead (memWrite m a n v) a n = v % 256 ^ n := by
  induction n generalizing m a v with
  | zero => simp [memRead, Nat.mod_one]
  | succ n ih =>
    have low : (Memory.read (memWrite m a (n + 1) v) a).toNat = v % 256 := by
      simpa using memWrite_read_inside wf a (n + 1) v 0 n.succ_pos
    have high : memRead (memWrite m a (n + 1) v) (a + 1) n = v / 256 % 256 ^ n :=
      ih (Memory.write_wf wf a (BitVec.ofNat 8 v)) (a + 1) (v / 256)
    rw [memRead, low, high, pow_succ', Nat.mod_mul]

/-- Settles O31: the laws of `memWrite` and `memRead`, put together. -/
theorem readAfterWrite : Obligations.ReadAfterWrite := fun m a n v wf =>
  ⟨memWrite_wf wf a n v, memRead_memWrite wf a n v, memWrite_read_inside wf a n v, memWrite_read_outside wf a n v,
    memRead_eq m a n, memRead_lt m a n⟩

/-! ### A provider's accesses (R79, R332) -/

theorem checkData_of_dataAt {s : State} {a n : Nat} (aligned : a % n = 0) (data : DataAt s a n) :
    s.checkData a n = none :=
  checkData_eq_none.mpr ⟨aligned, (inData_iff s a n).mpr data⟩

section Accesses

variable {s : State} {a : Nat} {w : Width} (m : List Host.Cell) (log : List Access)

theorem runProc_load_of_failed {r : TrapReason} (failed : s.checkData a (widthBytes w) = some r) (next : Nat → Proc) :
    runProc s (.load a w next) m log = .trap r := by
  simp [runProc, failed]

theorem runProc_store_of_failed {r : TrapReason} (failed : s.checkData a (widthBytes w) = some r) (v : Nat)
    (rest : Proc) : runProc s (.store a w v rest) m log = .trap r := by
  simp [runProc, failed]

theorem runProc_load_of_passed (passed : s.checkData a (widthBytes w) = none) (next : Nat → Proc) :
    runProc s (.load a w next) m log =
      runProc s (next (memRead m a (widthBytes w))) m
        (log ++ [s.access a w (memRead m a (widthBytes w)) .read]) := by
  simp [runProc, passed]

theorem runProc_store_of_passed (passed : s.checkData a (widthBytes w) = none) (v : Nat) (rest : Proc) :
    runProc s (.store a w v rest) m log =
      runProc s rest (memWrite m a (widthBytes w) v)
        (log ++ [s.access a w (v % 256 ^ widthBytes w) .write]) := by
  simp [runProc, passed]

end Accesses

/-- Settles O56: the three results of `CheckData` (R68), each for a load and for a store. -/
theorem providerAccesses : Obligations.ProviderAccesses := by
  intro s a v w next rest m log
  refine ⟨fun misaligned => ?_, fun aligned outside => ?_, fun aligned data => ?_⟩
  · have failed := checkData_misaligned (s := s) misaligned
    exact ⟨runProc_load_of_failed m log failed next, runProc_store_of_failed m log failed v rest⟩
  · have failed := checkData_outOfBounds aligned outside
    exact ⟨runProc_load_of_failed m log failed next, runProc_store_of_failed m log failed v rest⟩
  · have passed := checkData_of_dataAt aligned data
    exact ⟨runProc_load_of_passed m log passed next, runProc_store_of_passed m log passed v rest⟩

/-! ### A provider is confined to the data, heap and stack segments (R80) -/

/-- The code segment is apart from the other three (R6, D16, D52). -/
theorem State.Inv.not_codeAt_of_dataAt {s : State} (inv : s.Inv) {a : Nat} (data : DataAt s a 1) : ¬CodeAt s a 1 := by
  obtain ⟨codeApart, -⟩ := List.pairwise_cons.mp inv.segmentsFit.2
  simp only [List.forall_mem_cons] at codeApart
  obtain ⟨dataApart, heapApart, stackApart, -⟩ := codeApart
  simp only [DataAt, CodeAt] at data ⊢
  omega

/-- A provider's effect, in the terms of the statements. -/
theorem ProviderEffect.confined {s : State} (inv : s.Inv) {m : List Host.Cell} {log log' : List Access}
    (effect : ProviderEffect s s.mem m log log') :
    Memory.wf m = true ∧ ∀ a, Memory.read m a ≠ s.readByte a → DataAt s a 1 ∧ ¬CodeAt s a 1 := by
  refine ⟨effect.wf inv.memoryForm, fun a changed => ?_⟩
  have data := (inData_iff s a 1).mp (effect.changed inv.memoryForm a changed)
  exact ⟨data, inv.not_codeAt_of_dataAt data⟩

/-- Settles O57: a provider's course ends with a confined effect, or with the trap of a failed access. -/
theorem providerConfined : Obligations.ProviderConfined := fun s _ inv =>
  ⟨fun res m log ended => ((runProc_effect s _ s.mem []).1 res m log ended).confined inv,
    fun m log ended => ((runProc_effect s _ s.mem []).2 m log ended).confined inv,
    runProc_trap s _ s.mem []⟩

/-! ### What a step can write (R69), and a run (R62) -/

/-- Settles O24: a trap keeps the memory, and an `Effect` changes it as a checked access does. -/
theorem onlyDataWritten : Obligations.OnlyDataWritten := by
  intro s t a inv h changed
  rcases step_forms (running_of_next h) with ⟨i, r, trapped, -⟩ | ⟨i, acc, t', retired, e⟩
  · cases trapped.symm.trans h
    exact absurd (readByte_congr (takeTrap_mem i r s) a) changed
  · cases retired.symm.trans h
    obtain ⟨log, effect⟩ := e.memory
    obtain ⟨-, confined⟩ := effect.confined inv
    rw [readByte_congr (retire_mem i acc s t')] at changed
    exact (confined a changed).1

theorem SameRun.refl (s : State) : SameRun s s := ⟨rfl, rfl, rfl, rfl, rfl, rfl⟩

theorem SameRun.trans {s t u : State} (h : SameRun s t) (h' : SameRun t u) : SameRun s u :=
  ⟨h'.cfg.trans h.cfg, h'.codeSize.trans h.codeSize, h'.dataSize.trans h.dataSize, h'.limit.trans h.limit,
    h'.inputs.trans h.inputs, h'.hints.trans h.hints⟩

/-- The code segment is fixed for a run. -/
theorem SameRun.codeAt {s t : State} (same : SameRun s t) {a n : Nat} (code : CodeAt s a n) : CodeAt t a n := by
  rwa [CodeAt, same.cfg, same.codeSize]

theorem step_sameRun {s t : State} (h : step s = .next t) : SameRun s t := by
  rcases step_forms (running_of_next h) with ⟨i, r, trapped, -⟩ | ⟨i, acc, t', retired, e⟩
  · cases trapped.symm.trans h
    exact (takeTrap_entered i r s).run
  · cases retired.symm.trans h
    exact ⟨by simp [e.cfg], by simp [e.codeSize], by simp [e.dataSize], by simp [e.limit], by simp [e.inputs],
      by simp [e.hints]⟩

/-- One step writes no code byte: it writes data bytes, which are no code bytes. -/
theorem step_readByte_of_codeAt {s t : State} (inv : s.Inv) (h : step s = .next t) {a : Nat} (code : CodeAt s a 1) :
    t.readByte a = s.readByte a := by
  by_contra changed
  exact inv.not_codeAt_of_dataAt (onlyDataWritten s t a inv h changed) code

/-- What every step keeps holds after any number of cycles. -/
theorem runCycles_induction {P : State → Prop} (kept : ∀ t u, P t → step t = .next u → P u) {s : State} (start : P s)
    (k : Nat) : P (runCycles k s) := by
  induction k generalizing s with
  | zero => exact start
  | succ k ih =>
    rw [runCycles]
    split
    · exact ih (kept _ _ start ‹_›)
    · exact start
    · exact start

/-- `t` is a state of a run through `s`, with the code `s` had. -/
structure CodeIntact (s t : State) : Prop where
  inv : t.Inv
  run : SameRun s t
  code : ∀ a, CodeAt s a 1 → t.readByte a = s.readByte a

theorem CodeIntact.refl {s : State} (inv : s.Inv) : CodeIntact s s := ⟨inv, .refl s, fun _ _ => rfl⟩

theorem CodeIntact.step {s t u : State} (intact : CodeIntact s t) (h : step t = .next u) : CodeIntact s u where
  inv := stepKeepsInvariant t u intact.inv h
  run := intact.run.trans (step_sameRun h)
  code := fun a code =>
    (step_readByte_of_codeAt intact.inv h (intact.run.codeAt code)).trans (intact.code a code)

/-- Settles O23: intact code is kept by every step. -/
theorem codeNeverWritten : Obligations.CodeNeverWritten := fun _ k a inv code =>
  (runCycles_induction (fun _ _ => CodeIntact.step) (.refl inv) k).code a code

end Sys2Proof.Machine

/-! Words and their fields (R101 to R108): a row of R111 fixes the fields its mask keeps, an operand read from a word is
the field it was read from, and a word is its fields put together in any of the formats. -/
namespace Sys2Proof
open Machine

/-! ### The fields a row fixes -/

section Covered

variable {r : Row} {w : Word} (h : r.covers w = true)
include h

/-- A word that a row covers has the row's bits wherever the mask is all ones. -/
theorem slice_of_covers {a k : Nat} (fixed : r.mask.extractLsb' a k = BitVec.allOnes k) :
    w.extractLsb' a k = r.pat.extractLsb' a k := by
  rw [← (beq_iff_eq.mp h : w &&& r.mask = r.pat), BitVec.extractLsb'_and, fixed, BitVec.and_allOnes]

theorem field_of_covers {a k : Nat} (fixed : r.mask.extractLsb' a k = BitVec.allOnes k) :
    w.toNat / 2 ^ a % 2 ^ k = r.pat.toNat / 2 ^ a % 2 ^ k := by
  rw [← slice_toNat, slice_of_covers h fixed, slice_toNat]

theorem opcode_of_covers (fixed : r.mask.extractLsb' 0 7 = BitVec.allOnes 7) :
    w.toNat % 128 = r.pat.toNat % 128 := by
  simpa using field_of_covers h fixed

theorem funct3_of_covers (fixed : r.mask.extractLsb' 12 3 = BitVec.allOnes 3) :
    w.toNat / 2 ^ 12 % 8 = r.pat.toNat / 2 ^ 12 % 8 :=
  field_of_covers h fixed

/-- The fields of five bits: `rd`, `rs1` and `rs2`. -/
theorem register_of_covers {a : Nat} (fixed : r.mask.extractLsb' a 5 = BitVec.allOnes 5) :
    w.toNat / 2 ^ a % 32 = r.pat.toNat / 2 ^ a % 32 :=
  field_of_covers h fixed

theorem funct7_of_covers (fixed : r.mask.extractLsb' 25 7 = BitVec.allOnes 7) :
    w.toNat / 2 ^ 25 = r.pat.toNat / 2 ^ 25 := by
  have := field_of_covers h fixed
  omega

theorem imm12_of_covers (fixed : r.mask.extractLsb' 20 12 = BitVec.allOnes 12) :
    w.toNat / 2 ^ 20 = r.pat.toNat / 2 ^ 20 := by
  have := field_of_covers h fixed
  omega

end Covered

/-! ### An operand is the field it was read from -/

section Operands

variable (w : Word)

@[simp] theorem reg_rdOf : reg (rdOf w) = w.extractLsb' 7 5 := BitVec.ofNat_toNat ..

@[simp] theorem reg_rs1Of : reg (rs1Of w) = w.extractLsb' 15 5 := BitVec.ofNat_toNat ..

@[simp] theorem reg_rs2Of : reg (rs2Of w) = w.extractLsb' 20 5 := BitVec.ofNat_toNat ..

@[simp] theorem ofNat_shamtOf : BitVec.ofNat 5 (shamtOf w) = w.extractLsb' 20 5 := BitVec.ofNat_toNat ..

@[simp] theorem ofNat_bitsOf : BitVec.ofNat 5 (bitsOf w) = w.extractLsb' 20 5 := BitVec.ofNat_toNat ..

@[simp] theorem ofNat_imm20Of : BitVec.ofNat 20 (imm20Of w) = w.extractLsb' 12 20 := BitVec.ofNat_toNat ..

@[simp] theorem ofInt_immI : BitVec.ofInt 12 (immI w) = w.extractLsb' 20 12 := BitVec.ofInt_toInt

@[simp] theorem ofInt_immS : BitVec.ofInt 12 (immS w) = w.extractLsb' 25 7 ++ w.extractLsb' 7 5 := BitVec.ofInt_toInt

@[simp] theorem ofInt_immB : BitVec.ofInt 13 (immB w) =
    w.extractLsb' 31 1 ++ w.extractLsb' 7 1 ++ w.extractLsb' 25 6 ++ w.extractLsb' 8 4 ++ 0#1 := BitVec.ofInt_toInt

@[simp] theorem ofInt_immJ : BitVec.ofInt 21 (immJ w) =
    w.extractLsb' 31 1 ++ w.extractLsb' 12 8 ++ w.extractLsb' 20 1 ++ w.extractLsb' 21 10 ++ 0#1 := BitVec.ofInt_toInt

/-! ### An operand fits its field (R114) -/

@[simp] theorem rdOf_lt : rdOf w < 32 := (w.extractLsb' 7 5).isLt

@[simp] theorem rs1Of_lt : rs1Of w < 32 := (w.extractLsb' 15 5).isLt

@[simp] theorem rs2Of_lt : rs2Of w < 32 := (w.extractLsb' 20 5).isLt

@[simp] theorem shamtOf_lt : shamtOf w < 32 := (w.extractLsb' 20 5).isLt

@[simp] theorem bitsOf_lt : bitsOf w < 32 := (w.extractLsb' 20 5).isLt

@[simp] theorem imm20Of_lt : imm20Of w < 1048576 := (w.extractLsb' 12 20).isLt

theorem immInRange_toInt (x : BitVec 12) : immInRange x.toInt = true := by
  have := x.le_toInt
  have := x.toInt_lt
  simp only [immInRange, Bool.and_eq_true, decide_eq_true_eq]
  omega

@[simp] theorem immInRange_immI : immInRange (immI w) = true := immInRange_toInt _

@[simp] theorem immInRange_immS : immInRange (immS w) = true := immInRange_toInt _

@[simp] theorem branchOffsetOk_immB : branchOffsetOk (immB w) = true := by
  rw [immB, BitVec.toInt_append_zero]
  have := BitVec.le_toInt (w.extractLsb' 31 1 ++ w.extractLsb' 7 1 ++ w.extractLsb' 25 6 ++ w.extractLsb' 8 4)
  have := BitVec.toInt_lt (x := w.extractLsb' 31 1 ++ w.extractLsb' 7 1 ++ w.extractLsb' 25 6 ++ w.extractLsb' 8 4)
  simp only [branchOffsetOk, Bool.and_eq_true, decide_eq_true_eq]
  omega

@[simp] theorem jumpOffsetOk_immJ : jumpOffsetOk (immJ w) = true := by
  rw [immJ, BitVec.toInt_append_zero]
  have := BitVec.le_toInt (w.extractLsb' 31 1 ++ w.extractLsb' 12 8 ++ w.extractLsb' 20 1 ++ w.extractLsb' 21 10)
  have := BitVec.toInt_lt (x := w.extractLsb' 31 1 ++ w.extractLsb' 12 8 ++ w.extractLsb' 20 1 ++ w.extractLsb' 21 10)
  simp only [jumpOffsetOk, Bool.and_eq_true, decide_eq_true_eq]
  omega

/-! ### A word is its fields in any format (R102 to R107) -/

theorem encodeR_slices : encodeR (w.extractLsb' 25 7) (w.extractLsb' 20 5) (w.extractLsb' 15 5) (w.extractLsb' 12 3)
    (w.extractLsb' 7 5) (w.extractLsb' 0 7) = w := by
  simp (disch := rfl) only [encodeR, BitVec.extractLsb'_append_extractLsb'_eq_extractLsb', BitVec.extractLsb'_eq_self]

theorem encodeI_slices : encodeI (w.extractLsb' 20 12) (w.extractLsb' 15 5) (w.extractLsb' 12 3) (w.extractLsb' 7 5)
    (w.extractLsb' 0 7) = w := by
  simp (disch := rfl) only [encodeI, BitVec.extractLsb'_append_extractLsb'_eq_extractLsb', BitVec.extractLsb'_eq_self]

theorem encodeS_slices : encodeS (w.extractLsb' 25 7 ++ w.extractLsb' 7 5) (w.extractLsb' 20 5) (w.extractLsb' 15 5)
    (w.extractLsb' 12 3) (w.extractLsb' 0 7) = w := by
  simp (disch := rfl) only [encodeS, BitVec.extractLsb'_append_eq_left, BitVec.extractLsb'_append_eq_right,
    BitVec.extractLsb'_append_extractLsb'_eq_extractLsb', BitVec.extractLsb'_eq_self]

theorem encodeB_slices :
    encodeB (w.extractLsb' 31 1 ++ w.extractLsb' 7 1 ++ w.extractLsb' 25 6 ++ w.extractLsb' 8 4 ++ 0#1)
      (w.extractLsb' 20 5) (w.extractLsb' 15 5) (w.extractLsb' 12 3) (w.extractLsb' 0 7) = w := by
  apply BitVec.eq_of_getLsbD_eq
  intro k hk
  rw [encodeB_bit _ _ _ _ _ _ hk]
  simp only [BitVec.getLsbD_append, BitVec.getLsbD_extractLsb']
  interval_cases k <;> simp

theorem encodeU_slices : encodeU (w.extractLsb' 12 20) (w.extractLsb' 7 5) (w.extractLsb' 0 7) = w := by
  simp (disch := rfl) only [encodeU, BitVec.extractLsb'_append_extractLsb'_eq_extractLsb', BitVec.extractLsb'_eq_self]

theorem encodeJ_slices :
    encodeJ (w.extractLsb' 31 1 ++ w.extractLsb' 12 8 ++ w.extractLsb' 20 1 ++ w.extractLsb' 21 10 ++ 0#1)
      (w.extractLsb' 7 5) (w.extractLsb' 0 7) = w := by
  apply BitVec.eq_of_getLsbD_eq
  intro k hk
  rw [encodeJ_bit _ _ _ _ hk]
  simp only [BitVec.getLsbD_append, BitVec.getLsbD_extractLsb']
  interval_cases k <;> simp

end Operands

end Sys2Proof

/-! The round trip (R114): a row builds a well-formed instruction, whose encoding is the word it was built from. -/
namespace Sys2Proof

/-- The instruction a row builds from a word it covers encodes to that word. -/
def Row.Encodes (r : Row) : Prop := ∀ w, r.covers w = true → encode (r.build w) = w

/-- The row encodes in the format whose fields put together are the word: the row's operands are fields of the word, and
the fields that hold no operand are fixed by the row. -/
theorem Row.Encodes.of {r : Row} {format : Word → Word} (slices : ∀ w, format w = w)
    (operands : ∀ w, r.covers w = true → encode (r.build w) = format w := by
      intro w h; simp (disch := decide) [encode, slice_of_covers h]) : r.Encodes :=
  fun w h => (operands w h).trans (slices w)

theorem opRows_encode : ∀ r ∈ opRows, r.Encodes := by
  simp only [opRows, List.forall_mem_cons]
  exact ⟨.of encodeR_slices, .of encodeR_slices, .of encodeR_slices, .of encodeR_slices, .of encodeR_slices,
    .of encodeR_slices, .of encodeR_slices, .of encodeR_slices, .of encodeR_slices, .of encodeR_slices,
    .of encodeR_slices, .of encodeR_slices, .of encodeR_slices, .of encodeR_slices, .of encodeR_slices, nofun⟩

theorem immediateRows_encode : ∀ r ∈ immediateRows, r.Encodes := by
  simp only [immediateRows, List.forall_mem_cons]
  exact ⟨.of encodeI_slices, .of encodeI_slices, .of encodeI_slices, .of encodeI_slices, .of encodeI_slices,
    .of encodeI_slices, .of encodeR_slices, .of encodeR_slices, .of encodeR_slices, .of encodeU_slices,
    .of encodeU_slices, nofun⟩

theorem memoryRows_encode : ∀ r ∈ memoryRows, r.Encodes := by
  simp only [memoryRows, List.forall_mem_cons]
  exact ⟨.of encodeI_slices, .of encodeI_slices, .of encodeI_slices, .of encodeI_slices, .of encodeI_slices,
    .of encodeS_slices, .of encodeS_slices, .of encodeS_slices, nofun⟩

theorem controlRows_encode : ∀ r ∈ controlRows, r.Encodes := by
  simp only [controlRows, List.forall_mem_cons]
  exact ⟨.of encodeB_slices, .of encodeB_slices, .of encodeB_slices, .of encodeB_slices, .of encodeB_slices,
    .of encodeB_slices, .of encodeJ_slices, .of encodeI_slices, .of encodeI_slices, .of encodeI_slices,
    .of encodeI_slices, .of encodeI_slices, nofun⟩

theorem zkRows_encode : ∀ r ∈ zkRows, r.Encodes := by
  simp only [zkRows, List.forall_mem_cons]
  exact ⟨.of encodeR_slices, .of encodeR_slices, .of encodeR_slices, .of encodeR_slices, .of encodeR_slices,
    .of encodeR_slices, .of encodeR_slices, .of encodeR_slices, .of encodeR_slices, .of encodeR_slices,
    .of encodeR_slices, .of encodeR_slices, .of encodeR_slices, nofun⟩

/-- The encoding of what any row builds, put together from the five tables. -/
theorem rows_encode : ∀ r ∈ rows, r.Encodes := by
  simp only [rows, List.forall_mem_append]
  exact ⟨⟨⟨⟨opRows_encode, immediateRows_encode⟩, memoryRows_encode⟩, controlRows_encode⟩, zkRows_encode⟩

/-- Every word's operands fit their fields, so a row builds a well-formed instruction of the 32-register machine. -/
theorem build_wellFormed : ∀ r ∈ rows, ∀ w, (r.build w).wellFormed 32 = true := by
  simp only [rows, opRows, immediateRows, memoryRows, controlRows, zkRows, List.forall_mem_append,
    List.forall_mem_cons, List.not_mem_nil, IsEmpty.forall_iff, implies_true, and_true]
  and_intros
  all_goals
    intro w
    simp [Instr.wellFormed, Instr.registersBelow, Instr.registers, Instr.fieldsFit]

theorem wellFormed_iff {n : Nat} {i : Instr} :
    i.wellFormed n = true ↔ i.registersBelow n = true ∧ i.fieldsFit = true := Bool.and_eq_true_iff

namespace Laws.EncodedRow

/-- The family `EncodedRow`, for every instruction. -/
theorem all : ∀ i : Instr, Statement i
  | .add _ _ _ => add _ _ _ | .sub _ _ _ => sub _ _ _ | .sll _ _ _ => sll _ _ _
  | .slt _ _ _ => slt _ _ _ | .sltu _ _ _ => sltu _ _ _ | .xor _ _ _ => xor _ _ _
  | .srl _ _ _ => srl _ _ _ | .sra _ _ _ => sra _ _ _ | .or _ _ _ => or _ _ _
  | .and _ _ _ => and _ _ _ | .mul _ _ _ => mul _ _ _ | .div _ _ _ => div _ _ _
  | .divu _ _ _ => divu _ _ _ | .rem _ _ _ => rem _ _ _ | .remu _ _ _ => remu _ _ _
  | .addi _ _ _ => addi _ _ _ | .slti _ _ _ => slti _ _ _ | .sltiu _ _ _ => sltiu _ _ _
  | .xori _ _ _ => xori _ _ _ | .ori _ _ _ => ori _ _ _ | .andi _ _ _ => andi _ _ _
  | .slli _ _ _ => slli _ _ _ | .srli _ _ _ => srli _ _ _ | .srai _ _ _ => srai _ _ _
  | .lui _ _ => lui _ _ | .auipc _ _ => auipc _ _ | .lb _ _ _ => lb _ _ _
  | .lh _ _ _ => lh _ _ _ | .lw _ _ _ => lw _ _ _ | .lbu _ _ _ => lbu _ _ _
  | .lhu _ _ _ => lhu _ _ _ | .sb _ _ _ => sb _ _ _ | .sh _ _ _ => sh _ _ _
  | .sw _ _ _ => sw _ _ _ | .beq _ _ _ => beq _ _ _ | .bne _ _ _ => bne _ _ _
  | .blt _ _ _ => blt _ _ _ | .bge _ _ _ => bge _ _ _ | .bltu _ _ _ => bltu _ _ _
  | .bgeu _ _ _ => bgeu _ _ _ | .jal _ _ => jal _ _ | .jalr _ _ _ => jalr _ _ _
  | .ecall => ecall | .ebreak => ebreak | .halt => halt
  | .debug _ => debug _ | .fadd _ _ _ => fadd _ _ _ | .fsub _ _ _ => fsub _ _ _
  | .fmul _ _ _ => fmul _ _ _ | .fneg _ _ => fneg _ _ | .finv _ _ => finv _ _
  | .read _ => read _ | .hint _ => hint _ | .write _ => write _
  | .commit _ => commit _ | .assertEq _ _ => assertEq _ _ | .assertNe _ _ => assertNe _ _
  | .assertZero _ => assertZero _ | .rangeCheck _ _ => rangeCheck _ _

end Laws.EncodedRow

theorem decode_encode {n : Nat} (hn : n ≤ 32) {i : Instr} (wf : i.wellFormed n = true) :
    decode n (encode i) = .ok i := by
  obtain ⟨r, hr, -, covered, built⟩ := Laws.EncodedRow.all i n hn wf
  rw [decode_of_covers hr covered, built, if_pos (wellFormed_iff.mp wf).1]

theorem wellFormed_of_decode {n : Nat} {w : Word} {i : Instr} (h : decode n w = .ok i) : i.wellFormed n = true := by
  obtain ⟨r, hr, -, rfl, below⟩ := decode_ok h
  exact wellFormed_iff.mpr ⟨below, (wellFormed_iff.mp (build_wellFormed r hr w)).2⟩

theorem encode_of_decode {n : Nat} {w : Word} {i : Instr} (h : decode n w = .ok i) : encode i = w := by
  obtain ⟨r, hr, covered, rfl, -⟩ := decode_ok h
  exact rows_encode r hr w covered

/-- Settles O1: an instruction's own row covers its encoding, and the row that covers a word builds the instruction of
which the word is the encoding. -/
theorem roundTrip : Obligations.RoundTrip := fun _ hn =>
  ⟨fun _ => decode_encode (by omega), fun _ _ h => ⟨wellFormed_of_decode h, encode_of_decode h⟩⟩

end Sys2Proof

/-! The table and the decoder (R110 to R112, R116): what no row covers, and the check of the register operands. -/
namespace Sys2Proof

/-- Settles O2: both rows are the one that the search finds. -/
theorem rowsDisjoint : Obligations.RowsDisjoint := by
  intro w a b ha hb wa wb
  have found {r : Row} (hr : r ∈ rows) (hw : w &&& r.mask = r.pat) : rows.find? (fun x => x.covers w) = some r :=
    find_of_covers rows_clash hr (beq_iff_eq.mpr hw)
  rw [Option.some.inj ((found ha wa).symm.trans (found hb wb))]

theorem decode_of_not_covers {w : Word} (h : ∀ r ∈ rows, ¬r.covers w = true) (n : Nat) :
    decode n w = .error .noRow := by
  unfold decode
  rw [List.find?_eq_none.mpr h]

/-- The rows' major opcodes are those of R110, and every mask keeps the opcode. -/
theorem rows_opcode : ∀ r ∈ rows, r.mask.extractLsb' 0 7 = BitVec.allOnes 7 ∧
    r.pat.toNat % 128 ∈ [0x03, 0x0B, 0x13, 0x17, 0x23, 0x2B, 0x33, 0x37, 0x5B, 0x63, 0x67, 0x6F, 0x73] := by decide

/-- Settles O3: a row that covered the word would have the word's opcode. -/
theorem unassignedOpcodes : Obligations.UnassignedOpcodes := by
  intro n w unassigned
  refine decode_of_not_covers (fun r hr covered => unassigned ?_) n
  obtain ⟨fixed, assigned⟩ := rows_opcode r hr
  exact opcode_of_covers covered fixed ▸ assigned

/-- Settles O4: the opcodes of the all-zero and the all-ones word are unassigned. A row that covers the word leaves the
clause of its own opcode at most, and the other fields it fixes contradict that one. -/
theorem illegalEncodings : Obligations.IllegalEncodings := by
  rintro n w _ _ _ _ _ _ rfl rfl rfl rfl rfl rfl (zero | ones | illegal)
  · exact unassignedOpcodes n w (by rw [zero]; decide)
  · exact unassignedOpcodes n w (by rw [ones]; decide)
  · refine decode_of_not_covers ?_ n
    simp only [rows, opRows, immediateRows, memoryRows, controlRows, zkRows, List.forall_mem_append,
      List.forall_mem_cons, List.not_mem_nil, IsEmpty.forall_iff, implies_true, and_true]
    and_intros
    all_goals
      intro covered
      simp only [opcode_of_covers covered (by decide), BitVec.reduceToNat, Nat.reduceMod, Nat.reduceEqDiff,
        false_and, or_false, false_or, true_and] at illegal
    all_goals
      simp (disch := decide) only [funct3_of_covers covered, register_of_covers covered, funct7_of_covers covered,
        imm12_of_covers covered] at illegal
      simp at illegal

theorem registersBelow_iff {n : Nat} {i : Instr} : i.registersBelow n = true ↔ ∀ r ∈ i.registers, r < n := by
  simp [Instr.registersBelow]

theorem decode_32_ne_registerIndex (w : Word) : decode 32 w ≠ .error .registerIndex := by
  by_cases h : ∃ r ∈ rows, r.covers w = true
  · obtain ⟨r, hr, covered⟩ := h
    rw [decode_of_covers hr covered, if_pos (wellFormed_iff.mp (build_wellFormed r hr w)).1]
    nofun
  · rw [decode_of_not_covers (by simpa using h)]
    nofun

/-- The row that covers a word does not depend on the number of registers. -/
theorem decode_eq_of_decode_32 {w : Word} {i : Instr} (h : decode 32 w = .ok i) (n : Nat) :
    decode n w = if i.registersBelow n then .ok i else .error .registerIndex := by
  obtain ⟨r, hr, covered, rfl, -⟩ := decode_ok h
  exact decode_of_covers hr covered n

/-- Settles O5: a field of five bits is below 32, and below 16 is what the 16-register machine checks. -/
theorem registerIndexCheck : Obligations.RegisterIndexCheck := by
  refine fun w => ⟨decode_32_ne_registerIndex w, fun i h => ⟨fun below => ?_, fun ⟨r, hr, above⟩ => ?_⟩⟩
  · rw [decode_eq_of_decode_32 h, if_pos (registersBelow_iff.mpr below)]
  · rw [decode_eq_of_decode_32 h, if_neg fun below => ?_]
    exact absurd (registersBelow_iff.mp below r hr) (by omega)

end Sys2Proof

/-! The values of the signed immediates (R9, R108). -/
namespace Sys2Proof.Machine

/-- The value in `[0, 2^W)` of a signed field is the field's sign extension (R9). -/
theorem immValue_toInt {k W f : Nat} (x : BitVec k) (hk : 0 < k) (hW : k ≤ W) (hf : x.toNat = f) :
    immValue W x.toInt = sext W f k := by
  subst hf
  have le : 2 ^ k ≤ 2 ^ W := Nat.pow_le_pow_right (by decide) hW
  have half : 2 ^ k = 2 * 2 ^ (k - 1) := by rw [← pow_succ', Nat.sub_add_cancel hk]
  have lt := x.isLt
  unfold immValue wrap sext
  rw [BitVec.toInt_eq_toNat_cond, show (2 : Int) ^ W = (2 ^ W : Nat) by norm_cast]
  split_ifs
  · rw [Int.emod_eq_of_lt] <;> omega
  · omega
  · omega
  · rw [← Int.add_emod_right, Int.emod_eq_of_lt] <;> omega

/-- Settles O6: each immediate is its fields put together, sign-extended. -/
theorem immediateValues : Obligations.ImmediateValues := by
  intro W w hW
  refine ⟨?immI, ?immS, ?immB, ?immJ⟩
  case immI =>
    rintro f rfl
    exact immValue_toInt _ (by decide) (by omega) (by rw [slice_toNat]; omega)
  case immS =>
    rintro f rfl
    exact immValue_toInt _ (by decide) (by omega) (by simp only [append_toNat, slice_toNat]; omega)
  case immB =>
    rintro f rfl
    exact immValue_toInt _ (by decide) (by omega)
      (by simp only [append_toNat, slice_toNat, pow_one, BitVec.toNat_ofNat]; omega)
  case immJ =>
    rintro f rfl hJ
    exact immValue_toInt _ (by decide) (by omega)
      (by simp only [append_toNat, slice_toNat, pow_one, BitVec.toNat_ofNat]; omega)

end Sys2Proof.Machine

/-! One cycle (R140 to R150): what fetch and decode answer, and the row, the count and the status of the state a step
ends in. -/
namespace Sys2Proof.Machine

/-! ### Fetch and decode (R141 to R144) -/

section FetchDecode

variable {s : State}

theorem fetch_of_misaligned (misaligned : s.pc % 4 ≠ 0) : s.fetch = .error (.misaligned s.pc) := if_pos misaligned

theorem fetch_of_not_codeAt (aligned : s.pc % 4 = 0) (outside : ¬CodeAt s s.pc 4) :
    s.fetch = .error (.invalidAddress s.pc) := by
  rw [← inCode_iff] at outside
  simp [State.fetch, aligned, outside]

theorem fetch_of_codeAt (aligned : s.pc % 4 = 0) (code : CodeAt s s.pc 4) :
    s.fetch = .ok (BitVec.ofNat 32 (valueAt s s.pc 4)) := by
  rw [← inCode_iff] at code
  simp [State.fetch, aligned, code, memRead_state]

theorem fetchDecode_of_fetch_error {r : TrapReason} (fetched : s.fetch = .error r) : s.fetchDecode = .error r := by
  simp only [State.fetchDecode, fetched]

theorem fetchDecode_of_decode_ok {w : Word} {i : Instr} (fetched : s.fetch = .ok w)
    (decoded : decode s.cfg.N w = .ok i) : s.fetchDecode = .ok i := by
  simp only [State.fetchDecode, fetched, decoded]

theorem fetchDecode_of_illegal {w : Word} (fetched : s.fetch = .ok w) (illegal : ∀ i, decode s.cfg.N w ≠ .ok i) :
    s.fetchDecode = .error (.invalidInstruction w) := by
  cases decoded : decode s.cfg.N w with
  | error e => simp only [State.fetchDecode, fetched, decoded]
  | ok i => exact absurd decoded (illegal i)

/-- What fetch or decode raises is the whole of the cycle (R146). -/
theorem step_enters_trap {r : TrapReason} (running : s.status = .running) (fetched : s.fetchDecode = .error r) :
    ∃ t, step s = .next t ∧ TrapEntered none r s t :=
  ⟨_, step_of_fetchDecode_error running fetched, takeTrap_entered none r s⟩

end FetchDecode

/-- Settles O13: the fetch finds the word, which decodes. -/
theorem stepRunsDecoded : Obligations.StepRunsDecoded := fun _ _ running aligned code decoded =>
  step_of_fetchDecode_ok running (fetchDecode_of_decode_ok (fetch_of_codeAt aligned code) decoded)

/-- Settles O14: the three ways `fetchDecode` ends with an error. -/
theorem fetchTraps : Obligations.FetchTraps := fun _ running =>
  ⟨fun misaligned => step_enters_trap running (fetchDecode_of_fetch_error (fetch_of_misaligned misaligned)),
    fun aligned outside =>
      step_enters_trap running (fetchDecode_of_fetch_error (fetch_of_not_codeAt aligned outside)),
    fun aligned code illegal =>
      step_enters_trap running (fetchDecode_of_illegal (fetch_of_codeAt aligned code) illegal)⟩

/-- Settles O15: `step` looks at the status first. -/
theorem noStepAfterEnd : Obligations.NoStepAfterEnd := fun _ => step_ended

/-! ### The row, the count and the status (R146 to R149) -/

theorem retire_rowAdded (i : Instr) (acc : MemAccess) (s t : State) :
    RowAdded s (s.retire i acc t) (some i) acc none := by
  rw [RowAdded, retire_trace, snapshot_congr (retire_regs i acc s t)]

theorem reason_of_takeTrap_trapped {i : Option Instr} {r q : TrapReason} {s : State}
    (trapped : (s.takeTrap i r).status = .trapped q) : r = q := by
  simpa using trapped

/-- A cycle that completed from a running state traps for no reason but the limit, and for this one in the `L`-th
cycle or later (R148). -/
theorem reason_of_retire_trapped {s t : State} (running : s.status = .running) (e : Effect s t) {i : Instr}
    {acc : MemAccess} {r : TrapReason} (trapped : (s.retire i acc t).status = .trapped r) :
    r = .cycleLimitExceeded ∧ s.limit ≤ s.cycleCount + 1 := by
  rw [retire_status, e.limit, e.cycleCount] at trapped
  split_ifs at trapped with stopped
  · exact ⟨(Status.trapped.inj trapped).symm, stopped.2⟩
  · rcases e.status with same | ⟨halted, -⟩
    · exact nomatch (same.trans running).symm.trans trapped
    · exact nomatch halted.symm.trans trapped

/-- Settles O16: the two forms of a step, each with its row. -/
theorem oneRowPerCycle : Obligations.OneRowPerCycle := by
  intro s running
  rcases step_forms running with ⟨i, r, stepped, -⟩ | ⟨i, acc, t, stepped, e⟩
  · have entered := takeTrap_entered i r s
    refine ⟨_, i, MemAccess.none, some r, stepped, entered.count, entered.row, by simp, ?_⟩
    rintro q ⟨⟩
    exact ⟨entered.regs, rfl, entered.status⟩
  · exact ⟨_, some i, acc, none, stepped, by simp [e.cycleCount], retire_rowAdded i acc s t, by simp, by simp⟩

/-- Settles O20: a step that completed is trapped by the limit alone, so the step entered a trap. -/
theorem trapsAreExact : Obligations.TrapsAreExact := by
  intro s t r stepped trapped notLimit
  have running := running_of_next stepped
  rcases step_forms running with ⟨i, q, entered, -⟩ | ⟨i, acc, t', retired, e⟩
  · cases entered.symm.trans stepped
    obtain rfl := reason_of_takeTrap_trapped trapped
    exact ⟨i, takeTrap_entered i q s⟩
  · cases retired.symm.trans stepped
    exact absurd (reason_of_retire_trapped running e trapped).1 notLimit

/-- Settles O17: the invariant bounds the count from above; a step stopped by the limit entered no trap, and completed
in the `L`-th cycle at the earliest. -/
theorem cycleLimit : Obligations.CycleLimit := by
  intro s t inv stepped
  have running := running_of_next stepped
  have inv' := stepKeepsInvariant s t inv stepped
  have sameLimit := (step_sameRun stepped).limit
  refine ⟨fun stillRunning => sameLimit ▸ inv'.runningBelowLimit stillRunning, fun stopped => ?_⟩
  rcases step_forms running with ⟨i, r, entered, notLimit⟩ | ⟨i, acc, t', retired, e⟩
  · cases entered.symm.trans stepped
    exact absurd (reason_of_takeTrap_trapped stopped) notLimit
  · cases retired.symm.trans stepped
    have reached := (reason_of_retire_trapped running e stopped).2
    have counted : (s.retire i acc t').cycleCount = s.cycleCount + 1 := by simp [e.cycleCount]
    have bound := inv'.countBound
    exact ⟨by omega, _, retire_trace i acc s t', rfl⟩

end Sys2Proof.Machine

/-! A run from reset to its end (R34, R151), and its result (R38, R152). -/
namespace Sys2Proof.Machine

section Boot

variable {c : Config} {img : Image} {inputs hints : List Nat} {limit : Nat}

/-- What reset accepts, and the state it gives (R380). -/
theorem valid_of_boot {s : State} (booted : boot c img inputs hints limit = .next s) :
    ConfigValid c ∧ SegmentsFit c img.code.length (img.data.length + img.bssSize) ∧
      s = State.initial c img inputs hints limit := by
  unfold boot at booted
  split_ifs at booted with valid fit
  cases booted
  exact ⟨valid, fit, rfl⟩

/-- The state after an accepted reset satisfies the invariant: its registers are zero, its buffers are empty, and the
image's bytes lie in segments inside the address space. -/
theorem initial_inv (valid : ConfigValid c) (fit : SegmentsFit c img.code.length (img.data.length + img.bssSize)) :
    (State.initial c img inputs hints limit).Inv where
  config := valid
  segmentsFit := fit
  registerCount := List.length_replicate
  registerBound := fun v zero => List.eq_of_mem_replicate zero ▸ valid.1.1.pos
  memoryForm := placeBytes_wf (placeBytes_wf rfl _ _) _ _
  memoryBound := by
    have inside := fit.1
    simp only [segments, List.forall_mem_cons] at inside
    obtain ⟨code, data, -⟩ := inside
    exact placeBytes_bound (placeBytes_bound (by simp) _ _ code) _ _ (by omega)
  pcAligned := fun _ counted => absurd rfl counted
  inputCursor := Nat.zero_le _
  hintCursor := Nat.zero_le _
  outputBound := by simp [State.initial]
  commitmentBound := by simp [State.initial]
  rowsCounted := rfl
  countBound := Nat.zero_le _
  runningBelowLimit := fun running => by
    by_contra atLimit
    have : limit = 0 := by simpa [State.initial] using atLimit
    simp [State.initial, this] at running

theorem run_of_boot {s : State} (booted : boot c img inputs hints limit = .next s) :
    run c img inputs hints limit = .next (runCycles limit s) := by
  simp only [run, booted]

end Boot

/-- What every step of a run keeps, after any number of cycles. -/
theorem runCycles_codeIntact {s : State} (inv : s.Inv) (k : Nat) : CodeIntact s (runCycles k s) :=
  runCycles_induction (fun _ _ => CodeIntact.step) (.refl inv) k

theorem runCycles_of_next {s t : State} (stepped : step s = .next t) (k : Nat) :
    runCycles (k + 1) s = runCycles k t := by
  rw [runCycles, stepped]

theorem runCycles_of_ended {s : State} (ended : s.Ended) (k : Nat) : runCycles k s = s := by
  cases k with
  | zero => rfl
  | succ k => rw [runCycles, step_ended ended]

/-- Every cycle from Running is counted, so a run that is still Running took all the cycles it was given. -/
theorem ended_or_cycleCount_runCycles (k : Nat) (s : State) :
    (runCycles k s).Ended ∨ (runCycles k s).cycleCount = s.cycleCount + k := by
  induction k generalizing s with
  | zero => exact .inr rfl
  | succ k ih =>
    by_cases running : s.status = .running
    · obtain ⟨t, i, acc, r, stepped, counted, -⟩ := oneRowPerCycle s running
      rw [runCycles_of_next stepped]
      exact (ih t).imp_right fun count => by omega
    · rw [runCycles_of_ended running]
      exact .inl running

/-- `L` cycles end every run (R151): the invariant allows no Running state that has counted `L`. -/
theorem runCycles_limit_ended {s : State} (inv : s.Inv) : (runCycles s.limit s).Ended := by
  obtain ⟨inv', same, -⟩ := runCycles_codeIntact inv s.limit
  rcases ended_or_cycleCount_runCycles s.limit s with ended | counted
  · exact ended
  · intro running
    have below := inv'.runningBelowLimit running
    rw [same.limit] at below
    omega

/-- Settles O18: the invariant holds at reset and through the run, and bounds the count and counts the rows. -/
theorem runsEnd : Obligations.RunsEnd := by
  intro c img inputs hints limit s booted
  obtain ⟨valid, fit, rfl⟩ := valid_of_boot booted
  have inv : (State.initial c img inputs hints limit).Inv := initial_inv valid fit
  obtain ⟨inv', same, -⟩ := runCycles_codeIntact inv limit
  exact ⟨_, run_of_boot booted, runCycles_limit_ended inv, inv'.countBound.trans_eq same.limit, inv'.rowsCounted⟩

theorem result_of_running {s : State} (running : s.status = .running) : s.result = none := if_pos running

theorem result_of_ended {s : State} (ended : s.Ended) :
    s.result = some
      { outputs := s.outputs, commitments := s.commitments, status := s.status, trace := s.trace,
        accessLog := s.accessLog, final := s } :=
  if_neg ended

/-- Settles O19: the two branches of `State.result`. -/
theorem resultOfEndedRun : Obligations.ResultOfEndedRun := by
  intro s
  by_cases running : s.status = .running
  · simp [result_of_running running, State.Ended, running]
  · rw [result_of_ended running]
    refine ⟨by simp [State.Ended, running], ?_⟩
    rintro e ⟨⟩
    exact ⟨rfl, rfl, rfl, rfl, rfl, rfl⟩

end Sys2Proof.Machine

/-! An instruction's word by its fields (R101 to R107): the encoder's word decodes back. -/
namespace Sys2Proof

theorem decode_of_encode {n : Nat} (hn : n ≤ 32) {w : Word} {i : Instr} (encoded : encode i = w)
    (wf : i.wellFormed n = true) : decode n w = .ok i :=
  encoded ▸ decode_encode hn wf

/-- Settles O7: each word is the encoding of its well-formed instruction. -/
theorem specWordsDecode : Obligations.SpecWordsDecode := by
  and_intros
  all_goals exact decode_of_encode (by decide) (by decide) (by decide)

end Sys2Proof

namespace Sys2Proof.Machine

section Words

variable {i : Instr} {s : State} (ready : Ready i s)
include ready

theorem Ready.registers_le : s.cfg.N ≤ 32 := by
  have := ready.inv.registers; omega

theorem Ready.register_lt {r : Nat} (named : r ∈ i.registers) : r < 32 :=
  (ready.register named).trans_le ready.registers_le

theorem Ready.fieldsFit : i.fieldsFit = true := (wellFormed_iff.mp ready.2.2).2

theorem Ready.decodes {w : Word} (encoded : encode i = w) : Decodes s w i :=
  decode_of_encode ready.registers_le encoded ready.2.2

/-- I-shift, with a shift amount as the third field (R103). -/
theorem Ready.decodes_shiftWord {op f3 f7 rd rs1 shamt : Nat}
    (encoded : encode i = encodeR (BitVec.ofNat 7 f7) (BitVec.ofNat 5 shamt) (BitVec.ofNat 5 rs1) (BitVec.ofNat 3 f3)
      (BitVec.ofNat 5 rd) (BitVec.ofNat 7 op))
    (fits : shamt < 32) (hrd : rd ∈ i.registers := by simp [Instr.registers])
    (hrs1 : rs1 ∈ i.registers := by simp [Instr.registers])
    (h7 : f7 < 128 := by decide) (h3 : f3 < 8 := by decide) (ho : op < 128 := by decide) :
    Decodes s (rWord op f3 f7 rd rs1 shamt) i :=
  ready.decodes (encoded.trans
    (encodeR_eq _ _ _ _ _ _ h7 fits (ready.register_lt hrs1) h3 (ready.register_lt hrd) ho))

/-- The R format (R102). -/
theorem Ready.decodes_rWord {op f3 f7 rd rs1 rs2 : Nat}
    (encoded : encode i = encodeR (BitVec.ofNat 7 f7) (BitVec.ofNat 5 rs2) (BitVec.ofNat 5 rs1) (BitVec.ofNat 3 f3)
      (BitVec.ofNat 5 rd) (BitVec.ofNat 7 op))
    (hrs2 : rs2 ∈ i.registers := by simp [Instr.registers]) (hrd : rd ∈ i.registers := by simp [Instr.registers])
    (hrs1 : rs1 ∈ i.registers := by simp [Instr.registers])
    (h7 : f7 < 128 := by decide) (h3 : f3 < 8 := by decide) (ho : op < 128 := by decide) :
    Decodes s (rWord op f3 f7 rd rs1 rs2) i :=
  ready.decodes_shiftWord encoded (ready.register_lt hrs2) hrd hrs1 h7 h3 ho

/-- The I format (R103). -/
theorem Ready.decodes_iWord {op f3 rd rs1 : Nat} {imm : Int}
    (encoded : encode i = encodeI (BitVec.ofInt 12 imm) (BitVec.ofNat 5 rs1) (BitVec.ofNat 3 f3) (BitVec.ofNat 5 rd)
      (BitVec.ofNat 7 op))
    (hrd : rd ∈ i.registers := by simp [Instr.registers]) (hrs1 : rs1 ∈ i.registers := by simp [Instr.registers])
    (h3 : f3 < 8 := by decide) (ho : op < 128 := by decide) :
    Decodes s (iWord op f3 rd rs1 imm) i :=
  ready.decodes (encoded.trans (encodeI_eq _ _ _ _ _ (ready.register_lt hrs1) h3 (ready.register_lt hrd) ho))

/-- The U format (R106). -/
theorem Ready.decodes_uWord {op rd imm20 : Nat}
    (encoded : encode i = encodeU (BitVec.ofNat 20 imm20) (BitVec.ofNat 5 rd) (BitVec.ofNat 7 op))
    (fits : imm20 < 2 ^ 20) (hrd : rd ∈ i.registers := by simp [Instr.registers]) (ho : op < 128 := by decide) :
    Decodes s (uWord op rd imm20) i :=
  ready.decodes (encoded.trans (encodeU_eq _ _ _ fits (ready.register_lt hrd) ho))

end Words

end Sys2Proof.Machine

/-! The results of the integer instructions (R8, R9, R193): wrapped sums, signed views, and how many bits they take. -/
namespace Sys2Proof.Machine

theorem State.Inv.width_ge {s : State} (inv : s.Inv) : 16 ≤ s.cfg.W := inv.config.1.2.2.2.1

theorem State.Inv.regS_eq {s : State} (inv : s.Inv) (r : Nat) : s.regS r = sg s r :=
  Machine.regS_eq s r (by have := inv.width_ge; omega)

theorem u_lt (s : State) (r : Nat) : u s r < 2 ^ s.cfg.W := Nat.mod_lt _ (Nat.two_pow_pos _)

theorem wrap_natCast (W n : Nat) : wrap W n = n % 2 ^ W := by
  unfold wrap; norm_cast

theorem natCast_wrap (W : Nat) (z : Int) : (wrap W z : Int) = z % 2 ^ W :=
  Int.toNat_of_nonneg (Int.emod_nonneg z (by positivity))

theorem wrap_shiftLeft (W a k : Nat) : wrap W (a * 2 ^ k) = a * 2 ^ k % 2 ^ W := by
  rw [← wrap_natCast]; norm_cast

/-- Wrapping an operand first does not change a wrapped sum. -/
theorem wrap_add_wrap (W : Nat) (a z : Int) : wrap W (a + wrap W z) = wrap W (a + z) := by
  rw [wrap, natCast_wrap, Int.add_emod_emod, wrap]

/-- A number in the signed range is the signed view of its wrapped value. -/
theorem sView_wrap {W : Nat} {z : Int} (hW : 1 ≤ W) (lower : -2 ^ (W - 1) ≤ z) (upper : z < 2 ^ (W - 1)) :
    sView W (wrap W z) = z := by
  obtain ⟨k, rfl⟩ : ∃ k, W = k + 1 := ⟨W - 1, by omega⟩
  have double : (2 : Int) ^ (k + 1) = 2 * 2 ^ k := pow_succ' 2 k
  have view : (uView (k + 1) (wrap (k + 1) z) : Int) = z % (2 * 2 ^ k) := by
    rw [uView, Nat.mod_eq_of_lt (wrap_lt _ _), natCast_wrap, double]
  have small : uView (k + 1) (wrap (k + 1) z) < 2 ^ k ↔ z % (2 * 2 ^ k) < 2 ^ k := by
    rw [← view]; norm_cast
  simp only [Nat.add_sub_cancel] at lower upper
  simp only [sView, Nat.add_sub_cancel, small, view, double]
  rcases lt_or_ge z 0 with negative | nonnegative
  · have wrapped : z % (2 * 2 ^ k) = z + 2 * 2 ^ k := by
      rw [← Int.add_emod_right, Int.emod_eq_of_lt (by omega) (by omega)]
    rw [wrapped, if_neg (by omega), Int.add_sub_cancel]
  · have kept : z % (2 * 2 ^ k) = z := Int.emod_eq_of_lt nonnegative (by omega)
    rw [kept, if_pos upper]

/-- The signed view of a decoded 12-bit immediate is the immediate (R182). -/
theorem State.Inv.sView_imm {s : State} (inv : s.Inv) {imm : Int} (fits : immInRange imm = true) :
    sView s.cfg.W (s.imm imm) = imm := by
  have hW := inv.width_ge
  have wide : (2 : Int) ^ 11 ≤ 2 ^ (s.cfg.W - 1) := pow_le_pow_right₀ (by decide) (by omega)
  simp only [immInRange, Bool.and_eq_true, decide_eq_true_eq] at fits
  exact sView_wrap (by omega) (by omega) (by omega)

theorem boolValue_decide (p : Prop) [Decidable p] : boolValue (decide p) = if p then 1 else 0 := by
  simp [boolValue]

theorem State.Inv.boolValue_lt {s : State} (inv : s.Inv) (b : Bool) : boolValue b < 2 ^ s.cfg.W := by
  have bit : boolValue b ≤ 1 := by cases b <;> decide
  exact bit.trans_lt (Nat.one_lt_two_pow (by have := inv.width_ge; omega))

/-- The register write reduces modulo `P`, which leaves a `W`-bit result as it is (R22). -/
theorem Ready.completesWith {i : Instr} {s : State} (ready : Ready i s) {rd v v' : Nat}
    (executed : exec i s = writeResult i rd v' s) (fits : v' < 2 ^ s.cfg.W) (value : v' = v := by rfl)
    (hrd : rd ∈ i.registers := by simp [Instr.registers]) : CompletesWith i rd v s :=
  Machine.completesWith ready (ready.register hrd) executed
    (by rw [Nat.mod_eq_of_lt (fits.trans ready.inv.width), value])

end Sys2Proof.Machine

/-! The integer instructions (R171 to R192, R211). Each decodes by the format of its word and completes with a `W`-bit
result, which is the one the statement gives. -/
namespace Sys2Proof.Machine

/-- Settles O33: the results are wrapped, the sum and the product of natural numbers. -/
theorem addSubMul : Obligations.AddSubMul := by
  refine fun s rd rs1 rs2 => ⟨fun ready => ?add, fun ready => ?sub, fun ready => ?mul⟩
  case add =>
    exact ⟨ready.decodes_rWord rfl, ready.completesWith rfl (wrap_lt _ _) (wrap_natCast _ (u s rs1 + u s rs2))⟩
  case sub => exact ⟨ready.decodes_rWord rfl, ready.completesWith rfl (wrap_lt _ _)⟩
  case mul =>
    exact ⟨ready.decodes_rWord rfl, ready.completesWith rfl (wrap_lt _ _) (wrap_natCast _ (u s rs1 * u s rs2))⟩

/-- Settles O34: a bitwise operation on `W`-bit views gives a `W`-bit result. -/
theorem logic : Obligations.Logic := by
  refine fun s rd rs1 rs2 => ⟨fun ready => ?xor, fun ready => ?or, fun ready => ?and⟩
  case xor => exact ⟨ready.decodes_rWord rfl, ready.completesWith rfl (Nat.xor_lt_two_pow (u_lt _ _) (u_lt _ _))⟩
  case or => exact ⟨ready.decodes_rWord rfl, ready.completesWith rfl (Nat.or_lt_two_pow (u_lt _ _) (u_lt _ _))⟩
  case and => exact ⟨ready.decodes_rWord rfl, ready.completesWith rfl (Nat.and_lt_two_pow _ (u_lt _ _))⟩

/-- Settles O35: the immediate's value at width `W` has `W` bits, as the register's view has. -/
theorem logicImmediate : Obligations.LogicImmediate := by
  refine fun s rd rs1 imm => ⟨fun ready => ?xori, fun ready => ?ori, fun ready => ?andi⟩
  case xori =>
    exact ⟨ready.decodes_iWord rfl, ready.completesWith rfl (Nat.xor_lt_two_pow (u_lt _ _) (wrap_lt _ _))⟩
  case ori => exact ⟨ready.decodes_iWord rfl, ready.completesWith rfl (Nat.or_lt_two_pow (u_lt _ _) (wrap_lt _ _))⟩
  case andi => exact ⟨ready.decodes_iWord rfl, ready.completesWith rfl (Nat.and_lt_two_pow _ (wrap_lt _ _))⟩

/-- Settles O36: a right shift makes a view no larger, and the other two results are wrapped. -/
theorem shifts : Obligations.Shifts := by
  refine fun s rd rs1 rs2 => ⟨fun ready => ?sll, fun ready => ?srl, fun ready => ?sra⟩
  case sll => exact ⟨ready.decodes_rWord rfl, ready.completesWith rfl (wrap_lt _ _) (wrap_shiftLeft _ _ _)⟩
  case srl =>
    exact ⟨ready.decodes_rWord rfl, ready.completesWith rfl ((Nat.div_le_self _ _).trans_lt (u_lt _ _))⟩
  case sra =>
    exact ⟨ready.decodes_rWord rfl, ready.completesWith rfl (wrap_lt _ _) (by rw [ready.inv.regS_eq]; rfl)⟩

/-- Settles O37, as O36 with `shamt`, which fits its field. -/
theorem shiftsImmediate : Obligations.ShiftsImmediate := by
  refine fun s rd rs1 shamt => ⟨fun ready => ?slli, fun ready => ?srli, fun ready => ?srai⟩
  case slli =>
    exact ⟨ready.decodes_shiftWord rfl (of_decide_eq_true ready.fieldsFit),
      ready.completesWith rfl (wrap_lt _ _) (wrap_shiftLeft _ _ _)⟩
  case srli =>
    exact ⟨ready.decodes_shiftWord rfl (of_decide_eq_true ready.fieldsFit),
      ready.completesWith rfl ((Nat.div_le_self _ _).trans_lt (u_lt _ _))⟩
  case srai =>
    exact ⟨ready.decodes_shiftWord rfl (of_decide_eq_true ready.fieldsFit),
      ready.completesWith rfl (wrap_lt _ _) (by rw [ready.inv.regS_eq]; rfl)⟩

/-- Settles O38: the model's comparison is on the statement's views, and SLTI's immediate is its own signed view. -/
theorem comparisons : Obligations.Comparisons := by
  refine fun s rd rs1 rs2 imm => ⟨fun ready => ?slt, fun ready => ?sltu, fun ready => ?slti, fun ready => ?sltiu⟩
  case slt =>
    exact ⟨ready.decodes_rWord rfl, ready.completesWith rfl (ready.inv.boolValue_lt _)
      (by rw [State.regLtS, ready.inv.regS_eq, ready.inv.regS_eq, boolValue_decide])⟩
  case sltu =>
    exact ⟨ready.decodes_rWord rfl, ready.completesWith rfl (ready.inv.boolValue_lt _) (boolValue_decide _)⟩
  case slti =>
    exact ⟨ready.decodes_iWord rfl, ready.completesWith rfl (ready.inv.boolValue_lt _)
      (by rw [ready.inv.regS_eq, ready.inv.sView_imm ready.fieldsFit, boolValue_decide])⟩
  case sltiu =>
    exact ⟨ready.decodes_iWord rfl, ready.completesWith rfl (ready.inv.boolValue_lt _) (boolValue_decide _)⟩

/-- Settles O39: ADDI wraps its immediate before the sum, LUI and AUIPC wrap natural numbers. -/
theorem immediateAdds : Obligations.ImmediateAdds := by
  refine fun s rd rs1 imm20 imm => ⟨fun ready => ?addi, fun ready => ?lui, fun ready => ?auipc⟩
  case addi => exact ⟨ready.decodes_iWord rfl, ready.completesWith rfl (wrap_lt _ _) (wrap_add_wrap _ _ imm)⟩
  case lui =>
    exact ⟨ready.decodes_uWord rfl (of_decide_eq_true ready.fieldsFit),
      ready.completesWith rfl (wrap_lt _ _) (wrap_shiftLeft _ imm20 12)⟩
  case auipc =>
    exact ⟨ready.decodes_uWord rfl (of_decide_eq_true ready.fieldsFit),
      ready.completesWith rfl (wrap_lt _ _) (wrap_natCast _ (s.pc + imm20 * 2 ^ 12))⟩

/-- Settles O40: ADDI reads the view, FADD the value, which is below `P` already. -/
theorem copyOfAFieldElement : Obligations.CopyOfAFieldElement := by
  refine fun s rd rs addi fadd => ⟨?view, ?value⟩
  case view =>
    have copied : wrap s.cfg.W (u s rs + 0) = u s rs := by
      rw [Int.add_zero, wrap_natCast, Nat.mod_eq_of_lt (u_lt s rs)]
    exact addi.completesWith rfl (wrap_lt _ _) ((wrap_add_wrap _ _ 0).trans copied)
  case value =>
    have below : s.readReg rs < s.cfg.P := readReg_lt fadd.inv.pos fadd.inv.registerBound rs
    exact completesWith fadd (fadd.register (by simp [Instr.registers])) rfl
      (by rw [readReg_zero, Nat.add_zero, Nat.mod_eq_of_lt below, Nat.mod_eq_of_lt below])

end Sys2Proof.Machine

/-! Division (R210, R212 to R217): the trap for a zero divisor, and the quotient and the remainder of truncating
division in the signed `W`-bit range. -/
namespace Sys2Proof.Machine

/-! ### The four instructions -/

/-- The template of the division instructions, on the statement's operands: the divisor's view decides between the
result and the trap (R217). -/
theorem Ready.divides {i : Instr} {s : State} (ready : Ready i s) {rd rs2 v v' : Nat}
    (executed : exec i s = divide i rd rs2 v' s) (fits : v' < 2 ^ s.cfg.W) (value : v' = v := by rfl)
    (hrd : rd ∈ i.registers := by simp [Instr.registers]) :
    (u s rs2 ≠ 0 → CompletesWith i rd v s) ∧ (u s rs2 = 0 → TrapsWith i .divByZero s) := by
  rcases divide_cases executed.symm with ⟨zero, traps⟩ | ⟨nonzero, completes⟩
  · exact ⟨fun h => absurd zero h, fun _ => trapsWith traps⟩
  · exact ⟨fun _ => ready.completesWith completes fits value hrd, fun h => absurd h nonzero⟩

/-- Settles O41: the signed results are wrapped, and the unsigned ones are at most the dividend's view. -/
theorem divisions : Obligations.Divisions := by
  refine fun s rd rs1 rs2 => ⟨fun ready => ?div, fun ready => ?divu, fun ready => ?rem, fun ready => ?remu⟩
  case div =>
    exact ⟨ready.decodes_rWord rfl, ready.divides rfl (wrap_lt _ _)
      (by rw [ready.inv.regS_eq, ready.inv.regS_eq]; rfl)⟩
  case divu => exact ⟨ready.decodes_rWord rfl, ready.divides rfl ((Nat.div_le_self _ _).trans_lt (u_lt _ _))⟩
  case rem =>
    exact ⟨ready.decodes_rWord rfl, ready.divides rfl (wrap_lt _ _)
      (by rw [ready.inv.regS_eq, ready.inv.regS_eq]; rfl)⟩
  case remu => exact ⟨ready.decodes_rWord rfl, ready.divides rfl ((Nat.mod_le _ _).trans_lt (u_lt _ _))⟩

/-! ### Signed views -/

/-- The signed view lies in the signed `W`-bit range (R8). -/
theorem State.Inv.sg_range {s : State} (inv : s.Inv) (r : Nat) :
    -2 ^ (s.cfg.W - 1) ≤ sg s r ∧ sg s r < 2 ^ (s.cfg.W - 1) := by
  have double : 2 ^ s.cfg.W = 2 * 2 ^ (s.cfg.W - 1) := by
    rw [← pow_succ', Nat.sub_add_cancel (by have := inv.width_ge; omega)]
  have lower := Int.le_bmod (x := s.readReg r) (Nat.two_pow_pos s.cfg.W)
  have upper := Int.bmod_lt (x := s.readReg r) (Nat.two_pow_pos s.cfg.W)
  rw [double] at lower upper
  rw [sg, double]
  push_cast at lower upper ⊢
  omega

/-- The two views of a register agree modulo `2^W` (R8). -/
theorem sg_ne_zero {s : State} {r : Nat} (nonzero : u s r ≠ 0) : sg s r ≠ 0 := fun zero =>
  nonzero (Nat.mod_eq_zero_of_dvd (Int.natCast_dvd_natCast.mp (Int.dvd_of_bmod_eq_zero zero)))

section Completed

variable {i : Instr} {rd : Nat} {s t : State} (executed : exec i s = .next t) (notZero : rd ≠ 0)
include executed notZero

theorem CompletesWith.result {v : Nat} (completes : CompletesWith i rd v s) :
    t.cfg = s.cfg ∧ t.readReg rd = v := by
  obtain ⟨t', executed', cycled, -, written, -⟩ := completes
  cases executed.symm.trans executed'
  exact ⟨cycled.run.cfg, by simp [written rd, notZero]⟩

/-- A wrapped result in the signed range is read back by the signed view. -/
theorem CompletesWith.sg_result {z : Int} (completes : CompletesWith i rd (wrap s.cfg.W z) s) (width : 1 ≤ s.cfg.W)
    (lower : -2 ^ (s.cfg.W - 1) ≤ z) (upper : z < 2 ^ (s.cfg.W - 1)) : sg t rd = z := by
  obtain ⟨cfg, read⟩ := completes.result executed notZero
  rw [← Machine.regS_eq t rd (cfg ▸ width), State.regS, cfg, read, sView_wrap width lower upper]

end Completed

/-! ### Truncating division -/

section Truncating

variable {a b h : Int}

theorem natAbs_tmod_lt (nonzero : b ≠ 0) : (a.tmod b).natAbs < b.natAbs := by
  rw [Int.natAbs_tmod]
  exact Nat.mod_lt _ (Int.natAbs_pos.mpr nonzero)

/-- A remainder that is not zero has the dividend's sign. -/
theorem tmod_pos_iff (nonzero : a.tmod b ≠ 0) : 0 < a.tmod b ↔ 0 < a := by
  have sign : (a.tmod b).sign = a.sign := by
    rw [Int.sign_tmod, if_neg fun divides => nonzero (Int.tmod_eq_zero_of_dvd divides)]
  rw [← Int.sign_eq_one_iff_pos, sign, Int.sign_eq_one_iff_pos]

/-- A divisor of size 1 gives the dividend or its negation, and a larger one a quotient smaller than the dividend: only
`-h` by `-1` leaves the range. -/
theorem tdiv_range (lower : -h ≤ a) (upper : a < h) (nonzero : b ≠ 0) (noOverflow : a ≠ -h ∨ b ≠ -1) :
    -h ≤ a.tdiv b ∧ a.tdiv b < h := by
  by_cases overflow : b = -1
  · rw [overflow, Int.tdiv_neg, Int.tdiv_one]
    omega
  · by_cases one : b = 1
    · rw [one, Int.tdiv_one]
      exact ⟨lower, upper⟩
    · have smaller : (a.tdiv b).natAbs ≤ a.natAbs / 2 := by
        rw [Int.natAbs_tdiv]
        exact Nat.div_le_div_left (by omega) (by decide)
      omega

end Truncating

/-- Settles O42: both results are in the signed range, but for the one quotient that is `2^(W-1)`. -/
theorem divisionIdentity : Obligations.DivisionIdentity := by
  intro s t t' rd rs1 rs2 ready notZero nonzero executedDiv executedRem
  obtain ⟨divided, -, remaindered, -⟩ := divisions s rd rs1 rs2
  obtain ⟨-, completesDiv, -⟩ := divided ready
  obtain ⟨-, completesRem, -⟩ := remaindered ready
  have quotient := completesDiv nonzero
  have remainder := completesRem nonzero
  have width : 1 ≤ s.cfg.W := by have := ready.inv.width_ge; omega
  obtain ⟨lower, upper⟩ := ready.inv.sg_range rs1
  have divisorRange := ready.inv.sg_range rs2
  have divisor := sg_ne_zero nonzero
  have small := natAbs_tmod_lt (a := sg s rs1) divisor
  have sgRem : sg t' rd = (sg s rs1).tmod (sg s rs2) :=
    remainder.sg_result executedRem notZero width (by omega) (by omega)
  rw [sgRem]
  refine ⟨small, tmod_pos_iff, fun noOverflow => ?exact, fun least minusOne => ?overflow⟩
  case exact =>
    obtain ⟨lower', upper'⟩ := tdiv_range lower upper divisor noOverflow
    rw [quotient.sg_result executedDiv notZero width lower' upper', Int.mul_tdiv_add_tmod]
  case overflow =>
    rw [(quotient.result executedDiv notZero).2, (remainder.result executedRem notZero).2, least, minusOne,
      Int.tdiv_neg, Int.tdiv_one, Int.tmod_neg, Int.tmod_one, neg_neg]
    have below : 2 ^ (s.cfg.W - 1) < 2 ^ s.cfg.W := Nat.pow_lt_pow_right (by decide) (by omega)
    exact ⟨by rw [Int.emod_eq_of_lt (by positivity) (by exact_mod_cast below)]; norm_cast, by simp⟩

end Sys2Proof.Machine

/-! The field instructions (R230 to R235): results on full register values in `[0, P)`, and the inverse by Fermat's
little theorem. -/
namespace Sys2Proof.Machine

/-- The register write reduces modulo `P`, which leaves a field element as it is (R230). -/
theorem Ready.completesWith_fieldElement {i : Instr} {s : State} (ready : Ready i s) {rd v v' : Nat}
    (executed : exec i s = writeResult i rd v' s) (element : v' < s.cfg.P) (value : v' = v := by rfl)
    (hrd : rd ∈ i.registers := by simp [Instr.registers]) : CompletesWith i rd v s :=
  Machine.completesWith ready (ready.register hrd) executed (by rw [Nat.mod_eq_of_lt element, value])

theorem State.Inv.readReg_lt {s : State} (inv : s.Inv) (r : Nat) : s.readReg r < s.cfg.P :=
  Machine.readReg_lt inv.pos inv.registerBound r

theorem toNat_emod_lt {P : Nat} (positive : 0 < P) (z : Int) : (z % P).toNat < P :=
  (Int.toNat_lt' positive).mpr (Int.emod_lt_of_pos z (by exact_mod_cast positive))

/-- An integer difference that is not negative is the difference of natural numbers. -/
theorem toNat_sub_emod {a P : Nat} (below : a ≤ P) : (((P : Int) - a) % P).toNat = (P - a) % P := by
  rw [← Nat.cast_sub below]; norm_cast

/-- Settles O43: each result is reduced modulo `P`, and FNEG subtracts a value below `P` from `P`. FNEG's word
has 0 in place of `rs2`. -/
theorem fieldArithmetic : Obligations.FieldArithmetic := by
  refine fun s rd rs1 rs2 => ⟨fun ready => ?fadd, fun ready => ?fsub, fun ready => ?fmul, fun ready => ?fneg⟩
  case fadd =>
    exact ⟨ready.decodes_rWord rfl, ready.completesWith_fieldElement rfl (Nat.mod_lt _ ready.inv.pos)⟩
  case fsub =>
    exact ⟨ready.decodes_rWord rfl, ready.completesWith_fieldElement rfl (toNat_emod_lt ready.inv.pos _)⟩
  case fmul =>
    exact ⟨ready.decodes_rWord rfl, ready.completesWith_fieldElement rfl (Nat.mod_lt _ ready.inv.pos)⟩
  case fneg =>
    exact ⟨ready.decodes_shiftWord rfl (by decide),
      ready.completesWith_fieldElement rfl (toNat_emod_lt ready.inv.pos _)
        (toNat_sub_emod (ready.inv.readReg_lt rs1).le)⟩

/-! ### The inverse (R235) -/

/-- Squaring halves the exponent, so `fuel` bits of it take `fuel` rounds. -/
theorem powMod_eq (m : Nat) {fuel : Nat} (b : Nat) {e : Nat} (fits : e < 2 ^ fuel) :
    powMod m fuel b e = b ^ e % m := by
  induction fuel generalizing b e with
  | zero =>
    obtain rfl : e = 0 := by omega
    rw [powMod, pow_zero]
  | succ fuel ih =>
    have squared : powMod m fuel (b * b % m) (e / 2) = b ^ (2 * (e / 2)) % m := by
      rw [ih _ (by omega), ← Nat.pow_mod, pow_mul, pow_two]
    rw [powMod, squared]
    split
    case isTrue zero => rw [zero, pow_zero]
    case isFalse =>
      split
      case isTrue even => rw [Nat.two_mul_div_two_of_even (Nat.even_iff.mpr even)]
      case isFalse odd =>
        rw [Nat.mul_mod_mod, ← pow_succ', Nat.two_mul_div_two_add_one_of_odd (Nat.odd_iff.mpr (by omega))]

section Inverse

variable {P a : Nat}

theorem fieldInverse_eq (small : P < 2 ^ 32) : fieldInverse P a = a ^ (P - 2) % P := by
  rw [fieldInverse, powMod_eq P _ (by omega), ← Nat.pow_mod]

variable (prime : P.Prime) (nonzero : a ≠ 0) (element : a < P)
include prime nonzero element

/-- Fermat's little theorem: the product is `a^(P-1)`. -/
theorem mul_fieldInverse_mod (small : P < 2 ^ 32) : a * fieldInverse P a % P = 1 := by
  have two_le := prime.two_le
  have fermat : a ^ (P - 1) % P = 1 % P := by
    rw [← Nat.totient_prime prime]
    exact Nat.ModEq.pow_totient (Nat.coprime_of_lt_prime nonzero element prime).symm
  calc a * fieldInverse P a % P
    _ = a ^ (P - 2 + 1) % P := by rw [fieldInverse_eq small, Nat.mul_mod_mod, pow_succ']
    _ = 1 := by rw [show P - 2 + 1 = P - 1 by omega, fermat, Nat.mod_eq_of_lt (by omega)]

/-- A nonzero field element can be cancelled from a product modulo `P`. -/
theorem eq_of_mul_mod_eq {y z : Nat} (hy : y < P) (hz : z < P) (products : a * z % P = a * y % P) : z = y :=
  (Nat.ModEq.cancel_left_of_coprime (Nat.coprime_of_lt_prime nonzero element prime) products).eq_of_lt_of_lt hz hy

end Inverse

/-- The two cases of FINV, on the full value of its operand (R235). -/
theorem exec_finv_of_zero {s : State} {rs1 : Nat} (zero : s.readReg rs1 = 0) (rd : Nat) :
    exec (.finv rd rs1) s = trap (.finv rd rs1) .divByZero s := if_pos zero

theorem exec_finv_of_nonzero {s : State} {rs1 : Nat} (nonzero : s.readReg rs1 ≠ 0) (rd : Nat) :
    exec (.finv rd rs1) s = writeResult (.finv rd rs1) rd (fieldInverse s.cfg.P (s.readReg rs1)) s := if_neg nonzero

/-- Settles O44: Fermat's little theorem gives the inverse, cancellation modulo the prime makes it the only one. -/
theorem fieldInverse_unique : Obligations.FieldInverse := by
  refine fun s rd rs1 ready => ⟨ready.decodes_shiftWord rfl (by decide), fun nonzero => ?inverse, fun zero => ?trap⟩
  case inverse =>
    obtain ⟨prime, -, small, -⟩ := ready.inv.config.1
    have element := ready.inv.readReg_lt rs1
    have product := mul_fieldInverse_mod prime nonzero element small
    have below : fieldInverse s.cfg.P (s.readReg rs1) < s.cfg.P := by
      rw [fieldInverse_eq small]
      exact Nat.mod_lt _ prime.pos
    have positive : 1 ≤ fieldInverse s.cfg.P (s.readReg rs1) :=
      Nat.pos_of_ne_zero fun zero => by simp [zero] at product
    exact ⟨_, positive, below, product,
      fun z _ hz products => eq_of_mul_mod_eq prime nonzero element below hz (products.trans product.symm),
      ready.completesWith_fieldElement (exec_finv_of_nonzero nonzero rd) below⟩
  case trap => exact trapsWith (exec_finv_of_zero zero rd)

end Sys2Proof.Machine

/-! Loads and stores (R250 to R262): the value an access moves, the two ways it fails, and a load of what a
store left. -/
namespace Sys2Proof.Machine

/-! ### The value of an access (R66) and its extension (R251) -/

theorem valueAt_lt (s : State) (a n : Nat) : valueAt s a n < 2 ^ (8 * n) := by
  rw [← memRead_state, pow_mul]
  exact memRead_lt s.mem a n

section Extension

variable {s : State} (inv : s.Inv) (a : Nat) {n : Nat}
include inv

/-- A byte or a halfword has no more than the `W` bits of a register's view. -/
theorem State.Inv.access_le_width (narrow : n ≤ 2) : 8 * n ≤ s.cfg.W := by
  have := inv.width_ge; omega

/-- LBU and LHU: the register write leaves a zero-extended byte or halfword as it is (R22). -/
theorem State.Inv.valueAt_mod (narrow : n ≤ 2) : valueAt s a n % s.cfg.P = valueAt s a n :=
  Nat.mod_eq_of_lt <| calc
    valueAt s a n < 2 ^ (8 * n) := valueAt_lt s a n
    _ ≤ 2 ^ s.cfg.W := Nat.pow_le_pow_right (by decide) (inv.access_le_width narrow)
    _ < s.cfg.P := inv.width

/-- LB and LH: sign extension gives a `W`-bit value, which the register write leaves as it is (R9, R22). -/
theorem State.Inv.sext_valueAt_mod (nonempty : 1 ≤ n) (narrow : n ≤ 2) :
    sext s.cfg.W (valueAt s a n) (8 * n) % s.cfg.P =
      ((valueAt s a n : Int).bmod (2 ^ (8 * n)) % 2 ^ s.cfg.W).toNat := by
  rw [sext_eq (by omega) (inv.access_le_width narrow) (valueAt_lt s a n)]
  exact Nat.mod_eq_of_lt ((wrap_lt _ _).trans inv.width)

end Extension

/-! ### A failed access (R68) -/

section Failed

variable {i : Instr} {s : State} {rs1 : Nat} {imm : Int} {w : Width}

theorem load_of_failed {r : TrapReason} (failed : s.checkData (ea s rs1 imm) (widthBytes w) = some r) (rd : Nat)
    (ext : Nat → Nat) : load i rd rs1 imm w ext s = trap i r s := by
  rw [load, effectiveAddress_eq, failed]

theorem store_of_failed {r : TrapReason} (failed : s.checkData (ea s rs1 imm) (widthBytes w) = some r) (rs2 : Nat) :
    store i rs1 rs2 imm w s = trap i r s := by
  rw [store, effectiveAddress_eq, failed]

/-- An instruction that traps for whatever `CheckData` finds has the two traps of the statements. -/
theorem faultsAt_of_checkData {a n : Nat} (traps : ∀ r, s.checkData a n = some r → exec i s = trap i r s) :
    FaultsAt i a n s :=
  ⟨fun misaligned => trapsWith (traps _ (checkData_misaligned misaligned)),
    fun aligned outside => trapsWith (traps _ (checkData_outOfBounds aligned outside))⟩

theorem load_faultsAt {rd : Nat} {ext : Nat → Nat} (executed : exec i s = load i rd rs1 imm w ext s) :
    FaultsAt i (ea s rs1 imm) (widthBytes w) s :=
  faultsAt_of_checkData fun _ failed => executed.trans (load_of_failed failed rd ext)

theorem store_faultsAt {rs2 : Nat} (executed : exec i s = store i rs1 rs2 imm w s) :
    FaultsAt i (ea s rs1 imm) (widthBytes w) s :=
  faultsAt_of_checkData fun _ failed => executed.trans (store_of_failed failed rs2)

end Failed

/-! ### The eight instructions -/

section Meanings

variable {rd rs1 rs2 : Nat} {imm : Int} {s : State}

theorem exec_lb : exec (.lb rd rs1 imm) s = load (.lb rd rs1 imm) rd rs1 imm .byte (fun v => sext s.cfg.W v 8) s := rfl

theorem exec_lh : exec (.lh rd rs1 imm) s = load (.lh rd rs1 imm) rd rs1 imm .half (fun v => sext s.cfg.W v 16) s := rfl

theorem exec_lw : exec (.lw rd rs1 imm) s = load (.lw rd rs1 imm) rd rs1 imm .word (fun v => v) s := rfl

theorem exec_lbu : exec (.lbu rd rs1 imm) s = load (.lbu rd rs1 imm) rd rs1 imm .byte (fun v => v) s := rfl

theorem exec_lhu : exec (.lhu rd rs1 imm) s = load (.lhu rd rs1 imm) rd rs1 imm .half (fun v => v) s := rfl

theorem exec_sb : exec (.sb rs1 rs2 imm) s = store (.sb rs1 rs2 imm) rs1 rs2 imm .byte s := rfl

theorem exec_sh : exec (.sh rs1 rs2 imm) s = store (.sh rs1 rs2 imm) rs1 rs2 imm .half s := rfl

theorem exec_sw : exec (.sw rs1 rs2 imm) s = store (.sw rs1 rs2 imm) rs1 rs2 imm .word s := rfl

end Meanings

/-- The S format (R104). -/
theorem Ready.decodes_sWord {i : Instr} {s : State} (ready : Ready i s) {op f3 rs1 rs2 : Nat} {imm : Int}
    (encoded : encode i = encodeS (BitVec.ofInt 12 imm) (BitVec.ofNat 5 rs2) (BitVec.ofNat 5 rs1) (BitVec.ofNat 3 f3)
      (BitVec.ofNat 7 op))
    (hrs2 : rs2 ∈ i.registers := by simp [Instr.registers]) (hrs1 : rs1 ∈ i.registers := by simp [Instr.registers])
    (h3 : f3 < 8 := by decide) (ho : op < 128 := by decide) :
    Decodes s (sWord op f3 rs1 rs2 imm) i :=
  ready.decodes (encoded.trans (encodeS_eq _ _ _ _ _ (ready.register_lt hrs2) (ready.register_lt hrs1) h3 ho))

/-- A load that passes its check, with the register it names. -/
theorem Ready.loadsTo {i : Instr} {s : State} (ready : Ready i s) {rd rs1 : Nat} {imm : Int} {w : Width}
    {ext : Nat → Nat} {v : Nat} (executed : exec i s = load i rd rs1 imm w ext s)
    (aligned : ea s rs1 imm % widthBytes w = 0) (data : DataAt s (ea s rs1 imm) (widthBytes w))
    (value : ext (valueAt s (ea s rs1 imm) (widthBytes w)) % s.cfg.P = v)
    (hrd : rd ∈ i.registers := by simp [Instr.registers]) :
    LoadsTo i (ea s rs1 imm) (widthBytes w) (valueAt s (ea s rs1 imm) (widthBytes w)) rd v s :=
  Machine.loadsTo ready (ready.register hrd) executed aligned data value

/-- Settles O45: a byte is always aligned, and only LW's value can be changed by the register write. -/
theorem loads : Obligations.Loads := by
  refine fun s rd rs1 imm =>
    ⟨fun ready => ?lb, fun ready => ?lh, fun ready => ?lw, fun ready => ?lbu, fun ready => ?lhu⟩
  case lb =>
    exact ⟨ready.decodes_iWord rfl, load_faultsAt exec_lb, fun data =>
      ready.loadsTo exec_lb (Nat.mod_one _) data (ready.inv.sext_valueAt_mod _ (n := 1) (by decide) (by decide))⟩
  case lh =>
    exact ⟨ready.decodes_iWord rfl, load_faultsAt exec_lh, fun aligned data =>
      ready.loadsTo exec_lh aligned data (ready.inv.sext_valueAt_mod _ (n := 2) (by decide) (by decide))⟩
  case lw =>
    exact ⟨ready.decodes_iWord rfl, load_faultsAt exec_lw, fun aligned data =>
      ready.loadsTo exec_lw aligned data rfl⟩
  case lbu =>
    exact ⟨ready.decodes_iWord rfl, load_faultsAt exec_lbu, fun data =>
      ready.loadsTo exec_lbu (Nat.mod_one _) data (ready.inv.valueAt_mod _ (by decide))⟩
  case lhu =>
    exact ⟨ready.decodes_iWord rfl, load_faultsAt exec_lhu, fun aligned data =>
      ready.loadsTo exec_lhu aligned data (ready.inv.valueAt_mod _ (by decide))⟩

/-- Settles O46: each store is the template of R257 at its width. -/
theorem stores : Obligations.Stores := by
  refine fun s rs1 rs2 imm => ⟨fun ready => ?sb, fun ready => ?sh, fun ready => ?sw⟩
  case sb =>
    exact ⟨ready.decodes_sWord rfl, store_faultsAt exec_sb, fun data =>
      storesTo ready exec_sb (Nat.mod_one _) data⟩
  case sh =>
    exact ⟨ready.decodes_sWord rfl, store_faultsAt exec_sh, fun aligned data =>
      storesTo ready exec_sh aligned data⟩
  case sw =>
    exact ⟨ready.decodes_sWord rfl, store_faultsAt exec_sw, fun aligned data =>
      storesTo ready exec_sw aligned data⟩

/-! ### A load of what a store left (R261) -/

section RoundTrip

variable {s : State} {rs1 : Nat} {imm : Int} {w : Width}

/-- What a later instruction can see of a store that passes its check, whatever the status. -/
theorem store_of_dataAt (i : Instr) (rs2 : Nat) (aligned : ea s rs1 imm % widthBytes w = 0)
    (data : DataAt s (ea s rs1 imm) (widthBytes w)) :
    ∃ t, store i rs1 rs2 imm w s = .next t ∧ t.cfg = s.cfg ∧ t.dataSize = s.dataSize ∧ t.regs = s.regs ∧
      t.mem = memWrite s.mem (ea s rs1 imm) (widthBytes w) (s.readReg rs2) := by
  rw [store, effectiveAddress_eq, checkData_of_dataAt aligned data]
  exact ⟨_, rfl, by simp⟩

/-- The registers after a load that passes its check, whatever the status. -/
theorem load_of_dataAt (i : Instr) (rd : Nat) (ext : Nat → Nat) (aligned : ea s rs1 imm % widthBytes w = 0)
    (data : DataAt s (ea s rs1 imm) (widthBytes w)) :
    ∃ t, load i rd rs1 imm w ext s = .next t ∧
      t.regs = (s.writeReg rd (ext (memRead s.mem (ea s rs1 imm) (widthBytes w)))).regs := by
  rw [load, effectiveAddress_eq, checkData_of_dataAt aligned data]
  exact ⟨_, rfl, by simp⟩

theorem ea_congr {s t : State} (cfg : t.cfg = s.cfg) (regs : t.regs = s.regs) (rs1 : Nat) (imm : Int) :
    ea t rs1 imm = ea s rs1 imm := by
  rw [ea, ea, u, u, cfg, readReg_congr regs]

theorem dataAt_congr {s t : State} (cfg : t.cfg = s.cfg) (dataSize : t.dataSize = s.dataSize) (a n : Nat) :
    DataAt t a n ↔ DataAt s a n := by
  rw [DataAt, DataAt, cfg, dataSize]

/-- A zero-extending load gives the low bytes that a store of the same width left, and the register write leaves them
as they are, since they are no more than the field element stored. -/
theorem load_after_store (inv : s.Inv) {rd : Nat} (notZero : rd ≠ 0) (inFile : rd < s.cfg.N) {rs2 : Nat} {i j : Instr}
    (stores : exec i s = store i rs1 rs2 imm w s) (loads : ∀ t, exec j t = load j rd rs1 imm w (fun v => v) t)
    (aligned : ea s rs1 imm % widthBytes w = 0) (data : DataAt s (ea s rs1 imm) (widthBytes w)) :
    ∃ t t', exec i s = .next t ∧ exec j t = .next t' ∧
      t'.readReg rd = s.readReg rs2 % 256 ^ widthBytes w := by
  obtain ⟨t, stored, cfg, dataSize, regs, mem⟩ := store_of_dataAt i rs2 aligned data
  have address := ea_congr cfg regs rs1 imm
  obtain ⟨t', loaded, regs'⟩ := load_of_dataAt (s := t) j rd (fun v => v) (by rwa [address])
    (by rwa [address, dataAt_congr cfg dataSize])
  have moved : memRead t.mem (ea t rs1 imm) (widthBytes w) = s.readReg rs2 % 256 ^ widthBytes w := by
    rw [mem, address, memRead_memWrite inv.memoryForm]
  have element : s.readReg rs2 % 256 ^ widthBytes w < s.cfg.P := (Nat.mod_le _ _).trans_lt (inv.readReg_lt rs2)
  refine ⟨t, t', stores.trans stored, (loads t).trans loaded, ?_⟩
  rw [readReg_congr regs', readReg_writeReg _ _ _ _ (by rwa [regs, inv.length]), if_pos ⟨rfl, notZero⟩, moved, cfg,
    Nat.mod_eq_of_lt element]

end RoundTrip

/-- Settles O32: four bytes hold a whole field element, since `P` is below `2^32`. -/
theorem storeThenLoad : Obligations.StoreThenLoad := by
  refine fun s rs1 rs2 rd inv notZero inFile =>
    ⟨fun aligned data => ?word, fun aligned data => ?half, fun data => ?byte⟩
  case word =>
    obtain ⟨-, -, small, -⟩ := inv.config.1
    have whole : s.readReg rs2 % 256 ^ 4 = s.readReg rs2 :=
      Nat.mod_eq_of_lt ((inv.readReg_lt rs2).trans small)
    rw [← whole]
    exact load_after_store inv notZero inFile exec_sw (fun _ => exec_lw) aligned data
  case half => exact load_after_store inv notZero inFile exec_sh (fun _ => exec_lhu) aligned data
  case byte => exact load_after_store inv notZero inFile exec_sb (fun _ => exec_lbu) (Nat.mod_one _) data

end Sys2Proof.Machine

/-! Control transfer (R280 to R290): the conditional branches, which check the target only when they are taken, and the
two jumps, which link only when the target is aligned. -/
namespace Sys2Proof.Machine

/-! ### The words -/

section Words

variable {i : Instr} {s : State} (ready : Ready i s)
include ready

/-- The B format (R105). -/
theorem Ready.decodes_bWord {op f3 rs1 rs2 : Nat} {offset : Int}
    (encoded : encode i = encodeB (BitVec.ofInt 13 offset) (BitVec.ofNat 5 rs2) (BitVec.ofNat 5 rs1) (BitVec.ofNat 3 f3)
      (BitVec.ofNat 7 op))
    (hrs2 : rs2 ∈ i.registers := by simp [Instr.registers]) (hrs1 : rs1 ∈ i.registers := by simp [Instr.registers])
    (h3 : f3 < 8 := by decide) (ho : op < 128 := by decide) :
    Decodes s (bWord op f3 rs1 rs2 offset) i :=
  ready.decodes (encoded.trans (encodeB_eq _ _ _ _ _ (ready.register_lt hrs2) (ready.register_lt hrs1) h3 ho))

/-- The J format (R107). -/
theorem Ready.decodes_jWord {op rd : Nat} {offset : Int}
    (encoded : encode i = encodeJ (BitVec.ofInt 21 offset) (BitVec.ofNat 5 rd) (BitVec.ofNat 7 op))
    (hrd : rd ∈ i.registers := by simp [Instr.registers]) (ho : op < 128 := by decide) :
    Decodes s (jWord op rd offset) i :=
  ready.decodes (encoded.trans (encodeJ_eq _ _ _ (ready.register_lt hrd) ho))

end Words

/-! ### The eight instructions, on the statements' operands -/

theorem target_lt (s : State) (offset : Int) : target s offset < 2 ^ s.cfg.W := wrap_lt _ _

theorem ea_lt (s : State) (rs1 : Nat) (imm : Int) : ea s rs1 imm < 2 ^ s.cfg.W := wrap_lt _ _

theorem State.Inv.regLtS_eq {s : State} (inv : s.Inv) (a b : Nat) : s.regLtS a b = decide (sg s a < sg s b) := by
  rw [State.regLtS, inv.regS_eq, inv.regS_eq]

/-- JALR wraps its immediate before the sum, which the effective address does not (R288, R250). -/
theorem jalrTarget_eq (s : State) (rs1 : Nat) (imm : Int) : jalrTarget s rs1 imm = ea s rs1 imm - ea s rs1 imm % 2 := by
  have address : s.wrap (s.regU rs1 + s.imm imm) = ea s rs1 imm := wrap_add_wrap s.cfg.W (u s rs1) imm
  rw [jalrTarget, address]

section Meanings

variable {rd rs1 rs2 : Nat} {offset imm : Int} {s : State}

theorem exec_beq : exec (.beq rs1 rs2 offset) s =
    branch (.beq rs1 rs2 offset) (decide (s.readReg rs1 = s.readReg rs2)) offset s := rfl

theorem exec_bne : exec (.bne rs1 rs2 offset) s =
    branch (.bne rs1 rs2 offset) (!decide (s.readReg rs1 = s.readReg rs2)) offset s := rfl

theorem exec_blt (inv : s.Inv) : exec (.blt rs1 rs2 offset) s =
    branch (.blt rs1 rs2 offset) (decide (sg s rs1 < sg s rs2)) offset s := by
  rw [← inv.regLtS_eq]; rfl

theorem exec_bge (inv : s.Inv) : exec (.bge rs1 rs2 offset) s =
    branch (.bge rs1 rs2 offset) (!decide (sg s rs1 < sg s rs2)) offset s := by
  rw [← inv.regLtS_eq]; rfl

theorem exec_bltu : exec (.bltu rs1 rs2 offset) s =
    branch (.bltu rs1 rs2 offset) (decide (u s rs1 < u s rs2)) offset s := rfl

theorem exec_bgeu : exec (.bgeu rs1 rs2 offset) s =
    branch (.bgeu rs1 rs2 offset) (!decide (u s rs1 < u s rs2)) offset s := rfl

theorem exec_jal : exec (.jal rd offset) s =
    transfer (.jal rd offset) (target s offset) s (s.writeReg rd s.nextPc) := rfl

theorem exec_jalr : exec (.jalr rd rs1 imm) s =
    transfer (.jalr rd rs1 imm) (ea s rs1 imm - ea s rs1 imm % 2) s (s.writeReg rd s.nextPc) := by
  rw [← jalrTarget_eq]; rfl

end Meanings

/-! ### Branches and jumps -/

section Transfers

variable {i : Instr} {s : State} (ready : Ready i s)
include ready

/-- The template of the branches (R280): `p` decides between the next instruction, which is not checked, and the target,
which is. -/
theorem Ready.branches_if {p : Prop} [Decidable p] {offset : Int}
    (executed : exec i s = branch i (decide p) offset s) :
    (¬p → CompletesSilently i s) ∧ (p → target s offset % 4 = 0 → GoesTo i (target s offset) s) ∧
      (p → target s offset % 4 ≠ 0 → TrapsWith i (.misaligned (target s offset)) s) := by
  rcases branch_cases executed.symm with ⟨notTaken, completes⟩ | ⟨taken, transfers⟩
  · have fails : ¬p := of_decide_eq_false notTaken
    exact ⟨fun _ => completesSilently ready.running completes, fun h => absurd h fails, fun h => absurd h fails⟩
  · have holds : p := of_decide_eq_true taken
    exact ⟨fun h => absurd holds h, fun _ aligned => goesTo ready transfers aligned (target_lt s offset),
      fun _ misaligned => transfer_traps transfers misaligned⟩

/-- The same for a branch on the opposite condition. -/
theorem Ready.branches_unless {p : Prop} [Decidable p] {offset : Int}
    (executed : exec i s = branch i (!decide p) offset s) :
    (p → CompletesSilently i s) ∧ (¬p → target s offset % 4 = 0 → GoesTo i (target s offset) s) ∧
      (¬p → target s offset % 4 ≠ 0 → TrapsWith i (.misaligned (target s offset)) s) := by
  rw [← decide_not] at executed
  obtain ⟨silent, taken⟩ := ready.branches_if executed
  exact ⟨fun holds => silent (not_not_intro holds), taken⟩

/-- The template of the jumps (R287, R288): the link, which has `W` bits, is written only with the pc (R280). -/
theorem Ready.jumps {a rd : Nat} (executed : exec i s = transfer i a s (s.writeReg rd s.nextPc))
    (fits : a < 2 ^ s.cfg.W) (hrd : rd ∈ i.registers := by simp [Instr.registers]) :
    (a % 4 = 0 → JumpsTo i a rd ((s.pc + 4) % 2 ^ s.cfg.W) s) ∧ (a % 4 ≠ 0 → TrapsWith i (.misaligned a) s) := by
  have link : s.nextPc % s.cfg.P = s.nextPc := Nat.mod_eq_of_lt ((nextPc_lt s).trans ready.inv.width)
  exact ⟨fun aligned => jumpsTo ready (ready.register hrd) executed link aligned fits, transfer_traps executed⟩

end Transfers

/-- Settles O47: the branches compare the full values of the registers. -/
theorem equalityBranches : Obligations.EqualityBranches := by
  refine fun s rs1 rs2 offset => ⟨fun ready => ?beq, fun ready => ?bne⟩
  case beq => exact ⟨ready.decodes_bWord rfl, ready.branches_if exec_beq⟩
  case bne => exact ⟨ready.decodes_bWord rfl, ready.branches_unless exec_bne⟩

/-- Settles O48: the model's signed comparison is on the statement's views. -/
theorem signedBranches : Obligations.SignedBranches := by
  refine fun s rs1 rs2 offset => ⟨fun ready => ?blt, fun ready => ?bge⟩
  case blt => exact ⟨ready.decodes_bWord rfl, ready.branches_if (exec_blt ready.inv)⟩
  case bge => exact ⟨ready.decodes_bWord rfl, ready.branches_unless (exec_bge ready.inv)⟩

/-- Settles O49: as O47, on the unsigned views. -/
theorem unsignedBranches : Obligations.UnsignedBranches := by
  refine fun s rs1 rs2 offset => ⟨fun ready => ?bltu, fun ready => ?bgeu⟩
  case bltu => exact ⟨ready.decodes_bWord rfl, ready.branches_if exec_bltu⟩
  case bgeu => exact ⟨ready.decodes_bWord rfl, ready.branches_unless exec_bgeu⟩

/-- Settles O50: clearing bit 0 keeps JALR's target below `2^W`. -/
theorem jumps : Obligations.Jumps := by
  refine fun s rd rs1 t offset imm => ⟨fun ready => ?jal, fun ready cleared => ?jalr⟩
  case jal => exact ⟨ready.decodes_jWord rfl, ready.jumps exec_jal (target_lt s offset)⟩
  case jalr =>
    subst cleared
    exact ⟨ready.decodes_iWord rfl, ready.jumps exec_jalr ((Nat.sub_le _ _).trans_lt (ea_lt s rs1 imm))⟩

end Sys2Proof.Machine

/-! I/O, assertions and range checks (R300 to R309): the sequence an instruction takes from or appends to, and the
predicate it requires. -/
namespace Sys2Proof.Machine

/-- The R format (R102) with 0 in place of a register the instruction does not name. -/
theorem Ready.decodes_rFields {i : Instr} {s : State} (ready : Ready i s) {op f3 f7 rd rs1 rs2 : Nat}
    (encoded : encode i = encodeR (BitVec.ofNat 7 f7) (BitVec.ofNat 5 rs2) (BitVec.ofNat 5 rs1) (BitVec.ofNat 3 f3)
      (BitVec.ofNat 5 rd) (BitVec.ofNat 7 op))
    (hrd : rd < 32 := by decide) (hrs1 : rs1 < 32 := by decide) (hrs2 : rs2 < 32 := by decide)
    (h7 : f7 < 128 := by decide) (h3 : f3 < 8 := by decide) (ho : op < 128 := by decide) :
    Decodes s (rWord op f3 f7 rd rs1 rs2) i :=
  ready.decodes (encoded.trans (encodeR_eq _ _ _ _ _ _ h7 hrs2 hrs1 h3 hrd ho))

/-! ### The meanings -/

section Meanings

variable {s : State} {rd rs1 rs2 bits v : Nat}

/-- A register write changes `regs` and no other field (R22), so every other field stands here as it is in `s`. -/
theorem exec_read_of_some (next : s.inputs[s.inputCursor]? = some v) :
    exec (.read rd) s =
      complete (.read rd) s { s with regs := (s.writeReg rd v).regs, inputCursor := s.inputCursor + 1 } := by
  rw [exec, execRead, next]
  cases rd <;> rfl

theorem exec_read_of_exhausted (exhausted : s.inputs.length ≤ s.inputCursor) :
    exec (.read rd) s = trap (.read rd) (.inputExhausted .input) s := by
  rw [exec, execRead, List.getElem?_eq_none exhausted]

theorem exec_hint_of_some (next : s.hints[s.hintCursor]? = some v) :
    exec (.hint rd) s =
      complete (.hint rd) s { s with regs := (s.writeReg rd v).regs, hintCursor := s.hintCursor + 1 } := by
  rw [exec, execHint, next]
  cases rd <;> rfl

theorem exec_hint_of_exhausted (exhausted : s.hints.length ≤ s.hintCursor) :
    exec (.hint rd) s = trap (.hint rd) (.inputExhausted .hint) s := by
  rw [exec, execHint, List.getElem?_eq_none exhausted]

theorem exec_write : exec (.write rs1) s =
    complete (.write rs1) s { s with outputs := s.outputs ++ [s.readReg rs1] } := rfl

theorem exec_commit : exec (.commit rs1) s =
    complete (.commit rs1) s { s with commitments := s.commitments ++ [s.readReg rs1] } := rfl

theorem exec_assertEq : exec (.assertEq rs1 rs2) s =
    requirePredicate (.assertEq rs1 rs2) (decide (s.readReg rs1 = s.readReg rs2)) .assertionFailed s := rfl

theorem exec_assertNe : exec (.assertNe rs1 rs2) s =
    requirePredicate (.assertNe rs1 rs2) (decide (s.readReg rs1 ≠ s.readReg rs2)) .assertionFailed s := by
  rw [decide_not]; rfl

theorem exec_assertZero : exec (.assertZero rs1) s =
    requirePredicate (.assertZero rs1) (decide (s.readReg rs1 = 0)) .assertionFailed s := rfl

theorem exec_rangeCheck : exec (.rangeCheck rs1 bits) s =
    requirePredicate (.rangeCheck rs1 bits) (decide (s.readReg rs1 < 2 ^ bits)) .rangeCheckFailed s := rfl

end Meanings

/-! ### READ, HINT, WRITE and COMMIT -/

/-- The end of the cycle of an instruction that leaves memory alone, field by field from the state `t` it completes
with. -/
theorem complete_ends {i : Instr} {s t : State} (running : s.status = .running) (executed : exec i s = complete i s t)
    (effect : Effect s { t with pc := s.nextPc }) (status : t.status = s.status) (mem : t.mem = s.mem) :
    ∃ u, exec i s = .next u ∧ Cycled i MemAccess.none s u ∧ u.pc = (s.pc + 4) % 2 ^ s.cfg.W ∧ u.regs = t.regs ∧
      SameBytes s u ∧ u.inputCursor = t.inputCursor ∧ u.hintCursor = t.hintCursor ∧ u.outputs = t.outputs ∧
      u.commitments = t.commitments ∧ u.accessLog = t.accessLog :=
  ⟨_, executed, cycled_retire running effect status, by simp [State.nextPc], by simp, readByte_congr (by simp [mem]),
    by simp, by simp, by simp, by simp, by simp⟩

/-- `Effect.writeReg`, with the fields a register write leaves alone as they are in `s`. -/
theorem Effect.writeRegs (s : State) (rd v : Nat) : Effect s { s with regs := (s.writeReg rd v).regs, pc := s.nextPc } :=
  { Effect.skip s with
    length := writeReg_length s rd v
    bound := fun positive bounded => writeReg_bound positive bounded rd v }

/-- Settles O51: the sequence has an element at its cursor, so that the moved cursor stays in it, or is exhausted. -/
theorem readAndHint : Obligations.ReadAndHint := by
  refine fun s rd v => ⟨fun ready => ?read, fun ready => ?hint⟩
  case read =>
    have named : rd ∈ (Instr.read rd).registers := List.mem_singleton_self rd
    refine ⟨ready.decodes_rFields rfl (ready.register_lt named), fun next => ?_,
      fun exhausted => trapsWith (exec_read_of_exhausted exhausted)⟩
    have within : s.inputCursor < s.inputs.length := (List.getElem?_eq_some_iff.mp next).1
    obtain ⟨t, executed, cycled, pc, regs, bytes, inputCursor, hintCursor, outputs, commitments, log⟩ :=
      complete_ends ready.running (exec_read_of_some next)
        { Effect.writeRegs s rd v with inputCursor := .inr ⟨rfl, within⟩ } rfl rfl
    exact ⟨t, executed, cycled, pc, regWritten ready.inv (ready.register named) rfl regs, bytes, inputCursor, hintCursor,
      outputs, commitments, log⟩
  case hint =>
    have named : rd ∈ (Instr.hint rd).registers := List.mem_singleton_self rd
    refine ⟨ready.decodes_rFields rfl (ready.register_lt named), fun next => ?_,
      fun exhausted => trapsWith (exec_hint_of_exhausted exhausted)⟩
    have within : s.hintCursor < s.hints.length := (List.getElem?_eq_some_iff.mp next).1
    obtain ⟨t, executed, cycled, pc, regs, bytes, inputCursor, hintCursor, outputs, commitments, log⟩ :=
      complete_ends ready.running (exec_hint_of_some next)
        { Effect.writeRegs s rd v with hintCursor := .inr ⟨rfl, within⟩ } rfl rfl
    exact ⟨t, executed, cycled, pc, regWritten ready.inv (ready.register named) rfl regs, bytes, hintCursor, inputCursor,
      outputs, commitments, log⟩

/-- Settles O52: the cycle appends the value of the register as it is, not a view of it. -/
theorem writeAndCommit : Obligations.WriteAndCommit := by
  refine fun s rs1 => ⟨fun ready => ?write, fun ready => ?commit⟩
  case write =>
    have rs1_lt : rs1 < 32 := ready.register_lt (List.mem_singleton_self rs1)
    obtain ⟨t, executed, cycled, pc, regs, bytes, inputCursor, hintCursor, outputs, commitments, log⟩ :=
      complete_ends ready.running exec_write { Effect.skip s with outputs := .inr ⟨rs1, rfl⟩ } rfl rfl
    exact ⟨ready.decodes_rFields rfl (hrs1 := rs1_lt), t, executed, cycled, pc, readReg_congr regs, bytes, outputs,
      commitments, inputCursor, hintCursor, log⟩
  case commit =>
    have rs1_lt : rs1 < 32 := ready.register_lt (List.mem_singleton_self rs1)
    obtain ⟨t, executed, cycled, pc, regs, bytes, inputCursor, hintCursor, outputs, commitments, log⟩ :=
      complete_ends ready.running exec_commit { Effect.skip s with commitments := .inr ⟨rs1, rfl⟩ } rfl rfl
    exact ⟨ready.decodes_rFields rfl (hrs1 := rs1_lt), t, executed, cycled, pc, readReg_congr regs, bytes, commitments,
      outputs, inputCursor, hintCursor, log⟩

/-! ### Assertions and range checks -/

/-- The template of the assertions (R309): `p` decides between the next instruction and the trap. -/
theorem Ready.requires {i : Instr} {s : State} (ready : Ready i s) {p : Prop} [Decidable p] {r : TrapReason}
    (executed : exec i s = requirePredicate i (decide p) r s) :
    (p → CompletesSilently i s) ∧ (¬p → TrapsWith i r s) := by
  rcases requirePredicate_cases executed.symm with ⟨passed, completes⟩ | ⟨failed, traps⟩
  · exact ⟨fun _ => completesSilently ready.running completes, fun fails => absurd (of_decide_eq_true passed) fails⟩
  · exact ⟨fun holds => absurd holds (of_decide_eq_false failed), fun _ => trapsWith traps⟩

/-- Settles O53: each assertion requires its predicate, and the statement's failing case is the predicate's negation. -/
theorem assertions : Obligations.Assertions := by
  refine fun s rs1 rs2 bits =>
    ⟨fun ready => ?assertEq, fun ready => ?assertNe, fun ready => ?assertZero, fun ready => ?rangeCheck⟩
  all_goals have rs1_lt : rs1 < 32 := ready.register_lt (by simp [Instr.registers])
  case assertEq =>
    have rs2_lt : rs2 < 32 := ready.register_lt (by simp [Instr.registers])
    exact ⟨ready.decodes_rFields rfl (hrs1 := rs1_lt) (hrs2 := rs2_lt), ready.requires exec_assertEq⟩
  case assertNe =>
    have rs2_lt : rs2 < 32 := ready.register_lt (by simp [Instr.registers])
    obtain ⟨passes, traps⟩ := ready.requires exec_assertNe
    exact ⟨ready.decodes_rFields rfl (hrs1 := rs1_lt) (hrs2 := rs2_lt), passes, fun equal => traps (not_not_intro equal)⟩
  case assertZero =>
    exact ⟨ready.decodes_rFields rfl (hrs1 := rs1_lt), ready.requires exec_assertZero⟩
  case rangeCheck =>
    obtain ⟨passes, traps⟩ := ready.requires exec_rangeCheck
    exact ⟨ready.decodes_rFields rfl (hrs1 := rs1_lt) (hrs2 := of_decide_eq_true ready.fieldsFit), passes,
      fun tooLarge => traps (Nat.not_lt.mpr tooLarge)⟩

end Sys2Proof.Machine

/-! Reset gives a state of the invariant (R39, R380), and nothing changes a run's constants afterwards (R382). -/
namespace Sys2Proof.Machine

/-- Settles O11: reset accepts what breaks no constraint, and then gives `State.initial`. -/
theorem bootInvariant : Obligations.BootInvariant := by
  intro c img inputs hints limit s booted
  obtain ⟨valid, fit, rfl⟩ := valid_of_boot booted
  exact initial_inv valid fit

/-- Settles O10: `State.reset` is the state of an accepted reset. -/
theorem resetInvariant : Obligations.ResetInvariant :=
  bootInvariant _ _ _ _ _ _ resetIsBoot.2

/-- Settles O21: neither a trap nor the end of an instruction's cycle touches the constants. -/
theorem runConstants : Obligations.RunConstants := fun _ _ => step_sameRun

/-- Settles O29: the code looks at the reason's constructor alone. -/
theorem trapCodes : Obligations.TrapCodes := fun _ _ _ => rfl

end Sys2Proof.Machine

/-! The system instructions (R330 to R336): the end of a run by HALT or a provider, the provider that the syscall table
gives a number, and what each of a provider's outcomes does. -/
namespace Sys2Proof.Machine

/-! ### EBREAK, HALT and DEBUG (R334 to R336) -/

section Meanings

variable {s : State} {rs1 : Nat}

theorem exec_ebreak : exec .ebreak s = trap .ebreak .breakpoint s := rfl

theorem exec_halt : exec .halt s = halt .halt s { s with mem := s.mem, accessLog := s.accessLog ++ [] } := by
  rw [List.append_nil]; rfl

theorem exec_debug : exec (.debug rs1) s = complete (.debug rs1) s s := rfl

end Meanings

/-- What `halt` does, from a state that has committed a memory and log entries (R147, R332). -/
theorem haltsWith {i : Instr} {s : State} {m : List Host.Cell} {log : List Access}
    (executed : exec i s = halt i s { s with mem := m, accessLog := s.accessLog ++ log }) : HaltsWith i m log s :=
  ⟨_, executed, ⟨by simp, by simp, by simp, by simp, by simp, by simp⟩, retire_rowAdded _ _ _ _, by simp,
    by simp [retire_status], by simp, readReg_congr (by simp), by simp, ⟨by simp, by simp, by simp, by simp⟩, by simp⟩

/-- Settles O54: each of the three is one shared operation; DEBUG's word is of the I format with `imm12 = 3`. -/
theorem ebreakHaltDebug : Obligations.EbreakHaltDebug := by
  refine fun s rs1 => ⟨fun ready => ⟨ready.decodes rfl, trapsWith exec_ebreak⟩,
    fun ready => ⟨ready.decodes rfl, haltsWith exec_halt⟩, fun ready => ⟨?_, completesSilently ready.running exec_debug⟩⟩
  have rs1_lt : rs1 < 32 := ready.register_lt (List.mem_singleton_self rs1)
  exact ready.decodes (encodeI_eq 3 rs1 0 0 0x73 rs1_lt (by decide) (by decide) (by decide))

/-! ### The syscall table (R333) -/

section Table

variable {table : List (Nat × Provider)} {n : Nat}

theorem findProvider_of_missing (missing : ∀ q, (n, q) ∉ table) : findProvider table n = none := by
  induction table with
  | nil => rfl
  | cons entry rest ih =>
    obtain ⟨k, q⟩ := entry
    have other : n ≠ k := fun same => missing q (same ▸ List.mem_cons_self)
    rw [findProvider, if_neg other]
    exact ih fun q listed => missing q (List.mem_cons_of_mem _ listed)

/-- No number stands twice in the table (D29), so the first entry found is the one listed. -/
theorem findProvider_of_mem {p : Provider} (unique : (table.map Prod.fst).Nodup) (listed : (n, p) ∈ table) :
    findProvider table n = some p := by
  induction table with
  | nil => cases listed
  | cons entry rest ih =>
    obtain ⟨k, q⟩ := entry
    obtain ⟨fresh, unique⟩ := List.nodup_cons.mp unique
    rcases List.mem_cons.mp listed with first | later
    · cases first
      exact if_pos rfl
    · have other : n ≠ k := fun same => fresh (List.mem_map.mpr ⟨(n, p), later, same⟩)
      rw [findProvider, if_neg other]
      exact ih unique later

end Table

/-! ### The meaning of ECALL (R330 to R332) -/

theorem readReg_syscallRegister (s : State) : s.readReg s.syscallRegister = syscallNumber s :=
  apply_ite s.readReg _ _ _

theorem exec_ecall_of_unknown {s : State} (missing : ∀ q, (syscallNumber s, q) ∉ s.cfg.syscalls) :
    exec .ecall s = trap .ecall (.unknownSyscall (syscallNumber s)) s := by
  rw [exec, execEcall, readReg_syscallRegister, findProvider_of_missing missing]

theorem exec_ecall_of_provider {s : State} (inv : s.Inv) {p : Provider}
    (listed : (syscallNumber s, p) ∈ s.cfg.syscalls) : exec .ecall s = applyOutcome s (outcomeOf p s) := by
  obtain ⟨-, -, ⟨unique, -⟩, -⟩ := inv.config
  rw [exec, execEcall, readReg_syscallRegister, findProvider_of_mem unique listed]
  rfl

/-! ### The results of a provider (R332) -/

/-- The rule of R22 for a register that is not x0. -/
theorem readReg_writeReg_of_ne_zero {s : State} {i : Nat} (nonzero : i ≠ 0) (inFile : i < s.regs.length + 1)
    (v r : Nat) : (s.writeReg i v).readReg r = if r = i then v % s.cfg.P else s.readReg r :=
  (readReg_writeReg s i v r inFile).trans (if_congr (and_iff_left_of_imp fun same => same ▸ nonzero) rfl rfl)

/-- a0 and a1 are in the file with 16 registers too (R331). -/
theorem State.Inv.results_inFile {s : State} (inv : s.Inv) : 11 < s.regs.length + 1 := by
  have := inv.length
  rcases inv.registers with registers | registers <;> omega

section Results

variable {s : State} (inFile : 11 < s.regs.length + 1) (r : Nat)
include inFile

theorem readReg_writeResults_one (a : Nat) :
    (s.writeResults (.one a)).readReg r = if r = 10 then a % s.cfg.P else s.readReg r :=
  readReg_writeReg_of_ne_zero (by decide) (Nat.lt_of_succ_lt inFile) a r

theorem readReg_writeResults_two (a b : Nat) :
    (s.writeResults (.two a b)).readReg r =
      if r = 10 then a % s.cfg.P else if r = 11 then b % s.cfg.P else s.readReg r := by
  rw [State.writeResults, readReg_writeReg_of_ne_zero (by decide) (by rwa [writeReg_length]), writeReg_cfg,
    readReg_writeReg_of_ne_zero (by decide) (Nat.lt_of_succ_lt inFile)]
  rcases eq_or_ne r 10 with rfl | other
  · rfl
  · rw [if_neg other, if_neg other]

end Results

/-- `Ok` completes with the results written and the provider's memory and log committed (R332). -/
theorem ecall_completes_with_results {s : State} (running : s.status = .running) {res : Results} {m : List Host.Cell}
    {log : List Access} (executed : exec .ecall s = applyOutcome s (.ok res m log)) :
    ∃ t, exec .ecall s = .next t ∧ Cycled .ecall MemAccess.none s t ∧ t.pc = (s.pc + 4) % 2 ^ s.cfg.W ∧
      t.regs = (s.writeResults res).regs ∧ t.mem = m ∧ SameIO s t ∧ t.accessLog = s.accessLog ++ log :=
  ⟨_, executed,
    { run := ⟨by simp, by simp, by simp, by simp, by simp, by simp⟩
      row := retire_rowAdded _ _ _ _
      count := by simp
      status := by simp [retire_status, statusAfter, running] },
    by simp [State.nextPc], by simp, by simp, ⟨by simp, by simp, by simp, by simp⟩, by simp⟩

/-- Settles O55: the table is searched for the number, and `applyOutcome` says what each outcome does. -/
theorem ecallOutcomes : Obligations.EcallOutcomes := by
  refine fun s p ready => ⟨ready.decodes rfl, fun missing => trapsWith (exec_ecall_of_unknown missing), fun listed => ?_⟩
  have executed := exec_ecall_of_provider ready.inv listed
  refine ⟨fun res m log ok => ?_, fun r failed => trapsWith (executed.trans (congrArg (applyOutcome s) failed)),
    fun code err => trapsWith (executed.trans (congrArg (applyOutcome s) err)),
    fun m log exit => haltsWith (executed.trans (congrArg (applyOutcome s) exit))⟩
  obtain ⟨t, next, cycled, pc, regs, mem, io, accessLog⟩ :=
    ecall_completes_with_results ready.running (executed.trans (congrArg (applyOutcome s) ok))
  refine ⟨t, next, cycled, pc, fun r => (readReg_congr regs r).trans ?_, mem, io, accessLog⟩
  cases res with
  | zero => rfl
  | one a => exact readReg_writeResults_one ready.inv.results_inFile r a
  | two a b => exact readReg_writeResults_two ready.inv.results_inFile r a b

end Sys2Proof.Machine
